-- ==== Sys2Proof/Word.lean ====
section
/-! DEFINITION. The word types of the LX9 and their plainest arithmetic (R1 to R3, R31). -/
namespace Sys2Proof

abbrev Byte := BitVec 8
abbrev W16 := BitVec 16
abbrev W32 := BitVec 32
abbrev W48 := BitVec 48
abbrev W64 := BitVec 64
abbrev W128 := BitVec 128
/-- A guard mask of the 256 vector lanes (vg registers, R63). -/
abbrev LaneMask := BitVec 256
/-- A vector register, 1 KiB (R63). -/
abbrev VReg := BitVec 8192
/-- A q register, 32 lanes of 128 bits (R151). -/
abbrev QReg := BitVec 4096

/-- A sparse map: the listed keys hold what the list says, every other key holds a default that the
reader of the map names. The canonical form (keys strictly rising, no entry equal to the default) is
`SMap.Canon` in Machine/Store.lean. -/
abbrev SMap (α : Type) := List (Nat × α)

/-- The two sequencers of a core (R61). -/
inductive Strm where
  | main
  | miz
  deriving DecidableEq, Repr, Inhabited

/-- The two virtual engines (R123). -/
inductive Eng where
  | m
  | p
  deriving DecidableEq, Repr, Inhabited

/-- One stream of one core: core number under R12 and sequencer. -/
structure SRef where
  core : Nat
  strm : Strm
  deriving DecidableEq, Repr, Inhabited

/-- The other sequencer of the same core. -/
def Strm.other : Strm → Strm
  | .main => .miz
  | .miz => .main

/-- Cores of the package (R11). -/
def numCores : Nat := 144

end Sys2Proof
end

