-- ==== Sys2Proof/Machine/Bits.lean ====
section
/-! DEFINITION. Bit fields, packing of fields into words, and little-endian bytes (R2, R3, R31). -/
namespace Sys2Proof

/-- The field of `len` bits of `w` that begins at bit `lo`. -/
def fld {n : Nat} (w : BitVec n) (lo len : Nat) : BitVec len :=
  BitVec.ofNat len (w.toNat >>> lo)

/-- Bit `n` of `w`. -/
def flag {k : Nat} (w : BitVec k) (n : Nat) : Bool := fld w n 1 == 1#1

/-- A Boolean as one bit. -/
def bit1 (b : Bool) : BitVec 1 := if b then 1#1 else 0#1

/-- Append the field `x` below the fields packed so far. -/
def push {len : Nat} (acc : Nat) (x : BitVec len) : Nat := acc * 2 ^ len + x.toNat

/-- The value of bytes stored little-endian, the first at the lowest address. -/
def leNat : List Byte → Nat
  | [] => 0
  | b :: t => b.toNat + 256 * leNat t

/-- The `n` bytes of a value, little-endian. -/
def leBytes : Nat → Nat → List Byte
  | 0, _ => []
  | n + 1, v => BitVec.ofNat 8 v :: leBytes n (v / 256)

/-- SInt of R3. -/
def sint {n : Nat} (w : BitVec n) : Int := w.toInt

/-- The bit vector that wraps an exact integer modulo 2^n (R54). -/
def wrap (n : Nat) (x : Int) : BitVec n := BitVec.ofInt n x

end Sys2Proof
end

