-- ==== Sys2Proof/Syntax.lean ====
section
/-! DEFINITION. The abstract syntax: the operand shapes of R97 to R108, the payloads of the steps of the other
agents, and `Instr`, one constructor for each row of spec/opcode_table.json. -/
namespace Sys2Proof

/-! ### Operand shapes -/

/-- The guard of a slot (R97): GN [47] and G [46:43]. -/
structure Gd where
  neg : Bool
  g : BitVec 4
  deriving DecidableEq, Repr, Inhabited

/-- The fields that engine slots share (R98), with the guard. -/
structure Eh where
  gd : Gd
  hold : Bool
  pt : BitVec 6
  ct0 : BitVec 6
  ct1 : BitVec 6
  ct2 : BitVec 6
  deriving DecidableEq, Repr, Inhabited

/-- The S shape (R99): last-read mark and the operand field of R64. -/
structure Src where
  mark : Bool
  op : BitVec 8
  deriving DecidableEq, Repr, Inhabited

/-- The VS shape (R99). -/
structure VSrc where
  mark : Bool
  r : BitVec 10
  deriving DecidableEq, Repr, Inhabited

/-- The value of format KV (R100): an immediate, or an S operand. -/
inductive KVal where
  | imm (v : W32)
  | reg (s : Src)
  deriving DecidableEq, Repr, Inhabited

/-- The trip count of format KP (R100). -/
inductive LCount where
  | imm (n : W16)
  | reg (s : Src)
  deriving DecidableEq, Repr, Inhabited

/-- The source of VBCAST (R102 format VB): a commons operand, or an immediate that LT may replace. -/
inductive BSrc where
  | com (c : BitVec 8)
  | imm (lt : Bool) (v : W16)
  deriving DecidableEq, Repr, Inhabited

/-- The source of XMV (R104 format XM). -/
inductive XSrc where
  | port (p : BitVec 5)
  | reg (x : BitVec 5)
  deriving DecidableEq, Repr, Inhabited

/-- The flags of a bundle header (R92). -/
structure Flags where
  ew : BitVec 5
  safe : Bool
  ckpt : Bool
  stop : Bool
  deriving DecidableEq, Repr, Inhabited

/-! ### Payloads of the other agents' steps -/

/-- A context-registry entry (R296). The defaults are those of an entry that nothing has written (log 2). -/
structure CtxEntry where
  partition : Nat := 0
  rank : BitVec 3 := 0
  state : Nat := 0
  ptroot : W64 := 0
  boundsPa : W64 := 0
  imagePa : W64 := 0
  noticeVa : W64 := 0
  contain : W64 := 0x000A0000
  tdeleg : W64 := 0
  uhentry : W64 := BitVec.allOnes 64
  undoPa : W64 := 0
  undoLen : W64 := 0
  recPa : W64 := 0
  acthr : W64 := 0
  trigVa : W64 := BitVec.allOnes 64
  crc : W32 := 0
  deriving DecidableEq, Repr, Inhabited

/-- A queue-table entry of the notify engine (R280). `ctx` is the context that owns the queue. -/
structure QEntry where
  valid : Bool := false
  key : List Byte := []
  lastSeq : W64 := 0
  descPa : W64 := 0
  slot : Option Nat := none
  badTag : W32 := 0
  stale : W32 := 0
  ctx : Nat := 0
  deriving DecidableEq, Repr, Inhabited

/-- An owner-key entry of R275. -/
structure OwnerKey where
  key : List Byte := []
  valid : Bool := false
  revoked : Bool := false
  minSvn : W32 := 0
  deriving DecidableEq, Repr, Inhabited

/-- A firmware image (R275), its fields read little-endian. -/
structure FwImage where
  magic : W32
  kind : W16
  keyIx : W16
  svn : W32
  len : W32
  load : W64
  entry : W64
  hash : List Byte
  pubkey : List Byte
  sig : List Byte
  payload : List Byte
  deriving DecidableEq, Repr, Inhabited

/-- An image as it is offered through the mailbox window (R274): the image, and for an agent's image the partition that it is for. -/
structure MailboxImage where
  image : FwImage
  part : Nat
  deriving DecidableEq, Repr, Inhabited

/-- A link of a UALink station (R22, R212). -/
structure UaLink where
  stn : Nat
  link : Nat
  deriving DecidableEq, Repr, Inhabited

/-- A station translation context (R212, R284): the contexts a peer link may name and its doorbell page, which is none until DBVA is set
(log 2). -/
structure Station where
  ctxs : List Nat := []
  partition : Nat := 0
  dbva : W64 := BitVec.allOnes 64
  deriving DecidableEq, Repr, Inhabited

/-- Who performs a step of the Mast's software, by the mode of its core (R273): the boot monitor in M-mode, Nymen in HS-mode, the agent of
a partition in VS-mode. -/
inductive MastActor where
  | monitor | nymen
  | agent (part : Nat)
  deriving DecidableEq, Repr, Inhabited

/-- A step of the Mast's software: who performs it and what it is about (R273). -/
structure ByMast (α : Type) where
  who : MastActor
  arg : α
  deriving DecidableEq, Repr, Inhabited

/-- How a UALink station runs its four lanes (R22): as one link of four lanes, two of two, or four of one. -/
inductive UaForm where
  | x4 | x2x2 | x1x4
  deriving DecidableEq, Repr, Inhabited

/-- A Mast write to a table or register without behaviour of its own (R273). `gstage` is Nymen's G-stage table for the agent of a
partition: the physical ranges (first byte, bytes) that it may reach; `ethLink` enables link-level retry and credit-based flow control on
an Ethernet port (R21); `uaForm` configures a UALink station (R22); `msix` signals a vector of the PCI Express function (R23, log 50). -/
inductive MastWrite where
  | registry (ctx : Nat) (e : CtxEntry)
  | memory (pa : Nat) (key : Nat) (bytes : List Byte)
  | queue (qid : Nat) (e : QEntry)
  | peer (ix : Nat) (bytes : List Byte)
  | launchRec (part : Nat) (w : W64)
  | ppower (part : Nat) (w : W64)
  | weight (part : Nat) (w : W64)
  | station (ix : Nat) (s : Station)
  | ownerKey (ix : Nat) (k : OwnerKey)
  | rank (ctx : Nat) (r : BitVec 3)
  | fabricGroup (launch : Nat) (group : Nat)
  | keyOwner (slot : Nat) (part : Nat)
  | gstage (part : Nat) (ranges : List (Nat × Nat))
  | ethLink (port : Nat) (llr cbfc : Bool)
  | uaForm (station : Nat) (form : UaForm)
  | msix (vector : Nat)
  deriving DecidableEq, Repr

/-- A change that a handler or the debugger makes to the saved or stopped state of a stream (R288, R303): of a register, of a byte of the
scratchpad, of an element's V, of the 8 bytes at an offset of the context image (R293), or of the 8 bytes at an offset of a tile's area as
the image lays it out. -/
inductive Edit where
  | k (n : BitVec 4) (v : W64)
  | a (n : BitVec 6) (v : W64)
  | x (n : BitVec 4) (v : W64)
  | d (n : BitVec 5) (v : W64)
  | m (n : BitVec 4) (v : W64)
  | p (n : BitVec 4) (v : W64)
  | c (n : BitVec 5) (v : W64)
  | g (n : BitVec 4) (v : Bool)
  | vg (n : BitVec 3) (v : LaneMask)
  | v (n : BitVec 10) (v : VReg)
  | q (n : BitVec 4) (v : QReg)
  | pc (v : W48)
  | fmtr (v : W64)
  | slack (v : W64)
  | dom (v : W64)
  | spad (addr : Nat) (b : Byte)
  | tileV (z : Nat) (ix : Nat) (v : W128)
  | image (offset : Nat) (v : W64)
  | tileWord (z : Nat) (offset : Nat) (v : W64)
  deriving DecidableEq, Repr

/-- A debugger access through the PCI Express window (R303). -/
inductive DebugAccess where
  | read (r : SRef) (addr : Nat) (len : Nat)
  | readReg (r : SRef) (offset : Nat)
  | readTile (r : SRef) (z offset : Nat)
  | write (r : SRef) (e : Edit)
  deriving DecidableEq, Repr

/-- The operations of peer atomics (R212). -/
inductive PeerOp where
  | add | and | or | xor | max | min | swap | cas
  deriving DecidableEq, Repr

/-- The electrical forms of an Ethernet port (R20). -/
inductive EthForm where
  | down | e800x8 | e800x4 | e400x4 | e400x2 | e200x2 | e200x1
  deriving DecidableEq, Repr, Inhabited

/-- The lane rates of a UALink link (R22). -/
inductive UaRate where
  | down | g200 | g100
  deriving DecidableEq, Repr, Inhabited

/-- The result of training one UCIe module (R24). -/
inductive UcieState where
  | untrained | gt32 | gt16 | disabled
  deriving DecidableEq, Repr, Inhabited

/-! ### The steps of the machine -/

/-- One constructor for each row of spec/opcode_table.json: the 107 instruction forms of R109, then the steps
of the other agents. -/
inductive Instr where
  -- K slot
  | br (g : Gd) (off : W32)
  | brk (g : Gd) (imm : W16)
  | brx (g : Gd) (s : Src)
  | call (g : Gd) (kd : BitVec 4) (off : W32)
  | fmt (g : Gd) (v : KVal)
  | halt (g : Gd)
  | leave (g : Gd)
  | lit (imm : W32)
  | loop (g : Gd) (n : LCount) (exoff : BitVec 19)
  | mfs (g : Gd) (kd : BitVec 4) (sreg : BitVec 12)
  | mts (g : Gd) (s : Src) (sreg : BitVec 12)
  | opp (g : Gd) (v : KVal)
  | phase (g : Gd) (v : KVal)
  | rcm (g : Gd) (v : KVal)
  | ret (g : Gd) (s : Src)
  | stat (g : Gd) (kd : BitVec 4) (z : BitVec 2)
  | svc (g : Gd) (imm : W16)
  | wait (g : Gd) (t0 t1 t2 t3 : BitVec 6)
  -- A slot
  | add (g : Gd) (ad : BitVec 6) (s1 s2 : Src) (w : Bool)
  | addi (g : Gd) (ad : BitVec 6) (s1 : Src) (lt : Bool) (imm : BitVec 20)
  | and (g : Gd) (ad : BitVec 6) (s1 s2 : Src) (w : Bool)
  | clz (g : Gd) (ad : BitVec 6) (s1 : Src) (w : Bool)
  | cmp (g : Gd) (gd : BitVec 4) (s1 s2 : Src) (cc : BitVec 3) (w : Bool)
  | div (g : Gd) (ad : BitVec 6) (s1 s2 : Src) (w sg : Bool)
  | gand (g : Gd) (gd : BitVec 4) (n1 : Bool) (gs1 : BitVec 4) (n2 : Bool) (gs2 : BitVec 4)
  | gnot (g : Gd) (gd : BitVec 4) (n1 : Bool) (gs1 : BitVec 4)
  | gor (g : Gd) (gd : BitVec 4) (n1 : Bool) (gs1 : BitVec 4) (n2 : Bool) (gs2 : BitVec 4)
  | ld (g : Gd) (ad : BitVec 6) (sb : Src) (sz : BitVec 2) (sx : Bool) (off : BitVec 18)
  | max (g : Gd) (ad : BitVec 6) (s1 s2 : Src) (w sg : Bool)
  | min (g : Gd) (ad : BitVec 6) (s1 s2 : Src) (w sg : Bool)
  | movi (g : Gd) (ad : BitVec 6) (lt : Bool) (imm : BitVec 29)
  | mul (g : Gd) (ad : BitVec 6) (s1 s2 : Src) (w : Bool)
  | mulh (g : Gd) (ad : BitVec 6) (s1 s2 : Src) (w sg : Bool)
  | or (g : Gd) (ad : BitVec 6) (s1 s2 : Src) (w : Bool)
  | popc (g : Gd) (ad : BitVec 6) (s1 : Src) (w : Bool)
  | rem (g : Gd) (ad : BitVec 6) (s1 s2 : Src) (w sg : Bool)
  | sel (g : Gd) (ad : BitVec 6) (gn2 : Bool) (gs : BitVec 4) (s1 s2 : Src)
  | shl (g : Gd) (ad : BitVec 6) (s1 s2 : Src) (w : Bool)
  | shr (g : Gd) (ad : BitVec 6) (s1 s2 : Src) (w : Bool)
  | sra (g : Gd) (ad : BitVec 6) (s1 s2 : Src) (w : Bool)
  | st (g : Gd) (sd sb : Src) (sz : BitVec 2) (off : W16)
  | sub (g : Gd) (ad : BitVec 6) (s1 s2 : Src) (w : Bool)
  | xfr (g : Gd) (df : BitVec 4) (di : BitVec 10) (sf : BitVec 4) (si : BitVec 10) (l : Bool) (el : BitVec 7)
  | xor (g : Gd) (ad : BitVec 6) (s1 s2 : Src) (w : Bool)
  -- V slot
  | vabs (g : Gd) (vd : BitVec 10) (va : VSrc) (vt : BitVec 3)
  | vadd (g : Gd) (vd : BitVec 10) (va vb : VSrc) (vt : BitVec 3)
  | vand (g : Gd) (vd : BitVec 10) (va vb : VSrc) (vt : BitVec 3)
  | vbcast (g : Gd) (vd : BitVec 10) (s : BSrc)
  | vclamp (g : Gd) (vd : BitVec 10) (va vb : VSrc) (vt : BitVec 3)
  | vcmp (g : Gd) (vgd : BitVec 3) (va vb : VSrc) (cc vt : BitVec 3)
  | vcompact (g : Gd) (vd : BitVec 10) (vg : BitVec 3) (gn2 : Bool) (va : VSrc)
  | vcvt (g : Gd) (vd : BitVec 10) (va : VSrc) (frm dst : BitVec 4)
  | vexp2 (g : Gd) (vd : BitVec 10) (va : VSrc) (vt : BitVec 3)
  | vfma (g : Gd) (vd : BitVec 10) (va vb : VSrc) (vt : BitVec 3)
  | vmax (g : Gd) (vd : BitVec 10) (va vb : VSrc) (vt : BitVec 3)
  | vmin (g : Gd) (vd : BitVec 10) (va vb : VSrc) (vt : BitVec 3)
  | vmov (g : Gd) (vd : BitVec 10) (va : VSrc) (vt : BitVec 3)
  | vmul (g : Gd) (vd : BitVec 10) (va vb : VSrc) (vt : BitVec 3)
  | vor (g : Gd) (vd : BitVec 10) (va vb : VSrc) (vt : BitVec 3)
  | vperm (g : Gd) (vd : BitVec 10) (va vb : VSrc) (vt : BitVec 3)
  | vrcp (g : Gd) (vd : BitVec 10) (va : VSrc) (vt : BitVec 3)
  | vred (g : Gd) (vd : BitVec 10) (va : VSrc) (op vt : BitVec 3)
  | vrsq (g : Gd) (vd : BitVec 10) (va : VSrc) (vt : BitVec 3)
  | vscan (g : Gd) (vd : BitVec 10) (va : VSrc) (op vt : BitVec 3)
  | vsel (g : Gd) (vd : BitVec 10) (vg : BitVec 3) (gn2 : Bool) (va vb : VSrc)
  | vshl (g : Gd) (vd : BitVec 10) (va vb : VSrc) (vt : BitVec 3)
  | vshr (g : Gd) (vd : BitVec 10) (va vb : VSrc) (vt : BitVec 3)
  | vsub (g : Gd) (vd : BitVec 10) (va vb : VSrc) (vt : BitVec 3)
  | vxor (g : Gd) (vd : BitVec 10) (va vb : VSrc) (vt : BitVec 3)
  -- L slot
  | aadd (g : Gd) (v : BitVec 10) (base : BitVec 8) (ct : BitVec 6) (vi : BitVec 10) (t : BitVec 2)
  | aaddf (g : Gd) (v : BitVec 10) (base : BitVec 8) (ct : BitVec 6) (vi : BitVec 10) (t : BitVec 2)
  | acas (g : Gd) (v : BitVec 10) (base : BitVec 8) (ct : BitVec 6) (vi : BitVec 10) (t : BitVec 2)
  | aswap (g : Gd) (v : BitVec 10) (base : BitVec 8) (ct : BitVec 6) (vi : BitVec 10) (t : BitVec 2)
  | tagi (g : Gd) (v1 : BitVec 10) (ct : BitVec 6)
  | tagl (g : Gd) (v1 v2 : BitVec 10) (ct : BitVec 6)
  | tagw (g : Gd) (v1 v2 : BitVec 10) (ct : BitVec 6)
  | vld (g : Gd) (v : BitVec 10) (base : BitVec 8) (ct : BitVec 6) (off : BitVec 11)
  | vlde (g : Gd) (v : BitVec 10) (base : BitVec 8) (ct : BitVec 6) (off : BitVec 11)
  | vldx (g : Gd) (v : BitVec 10) (base : BitVec 8) (ct : BitVec 6) (vi : BitVec 10) (li : Bool)
  | vst (g : Gd) (v : BitVec 10) (base : BitVec 8) (ct : BitVec 6) (l : Bool) (off : BitVec 11)
  | vstx (g : Gd) (v : BitVec 10) (base : BitVec 8) (ct : BitVec 6) (vi : BitVec 10) (li ld : Bool)
  -- M slot
  | manch (h : Eh) (z : BitVec 2) (m : BitVec 4)
  | mdrain (h : Eh) (z : BitVec 2) (m : BitVec 4)
  | mma (h : Eh) (z : BitVec 2) (ma mb : BitVec 4)
  | mmas (h : Eh) (z : BitVec 2) (ma mb : BitVec 3) (sc : BitVec 2)
  | mzero (h : Eh) (z : BitVec 2) (m : BitVec 4)
  -- P slot
  | pcheck (h : Eh) (p : BitVec 4)
  | pdot (h : Eh) (z : BitVec 2) (q p : BitVec 4)
  | pgrp (h : Eh) (p : BitVec 4)
  | pscan (h : Eh) (q p : BitVec 4)
  | pscore (h : Eh) (p : BitVec 4)
  -- X slot
  | xget (h : Eh) (sp : BitVec 5) (x : BitVec 4)
  | xmv (h : Eh) (dp : BitVec 5) (s : XSrc)
  | xmvi (h : Eh) (dp : BitVec 5) (lt : Bool) (imm : BitVec 5)
  -- D slot
  | atomm (h : Eh) (d : BitVec 5) (op : BitVec 4)
  | atomr (h : Eh) (d : BitVec 5) (op : BitVec 4)
  | cbar (h : Eh)
  | cpy (h : Eh) (d : BitVec 5) (ac : BitVec 4) (ord : BitVec 2)
  | cpyg (h : Eh) (d : BitVec 5) (ac : BitVec 4) (ord : BitVec 2)
  | cpys (h : Eh) (d : BitVec 5) (ac : BitVec 4) (ord : BitVec 2)
  | cpyx (h : Eh) (d : BitVec 5) (ac : BitVec 4) (ord : BitVec 2)
  | cred (h : Eh) (d : BitVec 5) (op : BitVec 4)
  | fence (h : Eh) (scope : BitVec 3) (sc : Bool)
  | gdone (h : Eh) (d : BitVec 5)
  | gtrig (h : Eh) (d : BitVec 5)
  | notify (h : Eh) (d : BitVec 5)
  | tokj (h : Eh)
  -- the sequencers, the core and its engines
  | emptyBundle (f : Flags)
  | checkpointCommit (r : SRef)
  | clusterWake (r : SRef) (cl : Nat)
  | mizzenPrioritySwap (core : Nat)
  | gangMemberExecute (r : SRef)
  | engineBind (core : Nat) (e : Eng)
  | engineStart (core : Nat) (e : Eng) (sub : Bool)
  | virtualEngineFinish (core : Nat) (e : Eng) (sub : Bool)
  | virtualEngineRetire (r : SRef) (e : Eng)
  | conv (r : SRef)
  | pack (r : SRef)
  | tran (r : SRef)
  | sum (r : SRef)
  | xOperationRetire (r : SRef)
  | copyComplete (r : SRef) (id : Nat)
  | dOperationComplete (r : SRef) (id : Nat)
  | translationFault (r : SRef) (id : Nat)
  | faultResume (n : Nat)
  | faultAbort (n : Nat)
  | tlbInvalidate (ctx : Nat) (range : Option (Nat × Nat))
  | accessCounterThreshold (die : Nat) (ctx : Nat) (block : Nat)
  -- traps, pre-emption and contexts
  | trapTaken (r : SRef)
  | safePointOverdue (r : SRef)
  | trapContinue (r : SRef) (edits : List (SRef × Edit))
  | trapEscalate (r : SRef)
  | contextTerminate (ctx : Nat)
  | preemptionRequest (r : SRef)
  | preemptionLand (r : SRef)
  | contextRestore (r : SRef) (ctx : Nat)
  -- queues, launches and the task graph
  | queueNop (slot : Nat)
  | launch (slot : Nat)
  | ib (slot : Nat)
  | signal (slot : Nat)
  | waitmem (slot : Nat)
  | waitmemPoll (slot : Nat)
  | graphload (slot : Nat)
  | graphrun (slot : Nat)
  | queueRestart (qid : Nat)
  | launchStart (id : Nat)
  | launchComplete (id : Nat)
  | triggerWrite (n : Nat)
  | graphRunStart (ctx gid : Nat)
  | graphNodeComplete (ctx gid node : Nat)
  | policyPick (part : Nat)
  | policyEnqueue (part : Nat) (qid : Nat)
  | policyTimeSlice (part : Nat)
  | policyLoad (part : Nat) (words : List W32)
  | queueMap (qid slot : Nat)
  | queueUnmap (qid : Nat)
  | queueUnmapComplete (slot : Nat)
  -- peers, doorbells, routers and barriers
  | ualinkDoorbellWrite (u : UaLink) (va : W64) (bytes : List Byte)
  | uetNotifyMessage (bytes : List Byte)
  | ualinkTriggerWrite (u : UaLink) (va : W64) (bytes : List Byte)
  | notifyAckTimeout (r : SRef) (id : Nat)
  | peerWrite (u : UaLink) (ctx : Nat) (va : W64) (bytes : List Byte)
  | peerRead (u : UaLink) (ctx : Nat) (va : W64) (len : Nat)
  | peerReadAnswer (n : Nat)
  | peerAtomic (u : UaLink) (ctx : Nat) (va : W64) (wide : Bool) (op : PeerOp) (opnd cmp : W64)
  | routerPacketArrival (core tree src : Nat)
  | treeDeadline (core tree : Nat)
  | barrierComplete (r : SRef) (level : Nat)
  | egressSend (ctx : Nat)
  -- recovery and the Mast
  | recoveryPoint (ctx : Nat)
  | recoveryPointComplete (ctx : Nat)
  | uncorrectableMemoryError (pa : Nat)
  | coreHardwareError (core : Nat) (unit : Nat)
  | evtake (mc : Nat)
  | evack (mc : Nat)
  | nymenCrash
  | nymenThaw
  | warmRestartTimeout
  | coldReset
  | bootImage (img : MailboxImage)
  | fuseMinimumRaise (kind : ByMast Nat) (svn : W32)
  | getMeasurements
  | partitionCreate (part : Nat) (cores : List Nat)
  | partitionResize (part : Nat) (cores : List Nat)
  | partitionDestroy (part : Nat)
  | keySlotLoad (slot : ByMast Nat)
  | mastRegisterWrite (w : ByMast MastWrite)
  | debugUnlock (part : Nat) (authenticated approved : Bool)
  | debugStop (r : SRef)
  | debugAccess (a : DebugAccess)
  | debugSessionEnd (part : Nat)
  -- power, memory controllers and links
  | arbiterEpoch (measured : List (Nat × Nat × Nat))
  | droopEvent (core : Nat) (mv : Nat) (rise : List (Nat × Nat))
  | droopPenaltyEnd (die cluster : Nat)
  | clusterIdle (die cluster : Nat)
  | clusterReactivate (die cluster : Nat)
  | lendingRecallComplete (die cluster : Nat)
  | oppTransitionComplete (core : Nat)
  | meterWindowEnd (core : Nat) (usedPj : Nat)
  | thermalLimit (stack : Nat) (left : Nat)
  | mastTimer (part n : Nat)
  | ethernetLinkTraining (port : Nat) (form : EthForm)
  | ualinkLinkTraining (station link : Nat) (rate : UaRate)
  | pcieLinkTraining (gen width : Nat)
  | ucieModuleTraining (edge modl : Nat) (res : UcieState)
  | correctedSoftError (pa : Nat)
  deriving DecidableEq, Repr

/-- The eight slots in PRES bit order (R63, R92). -/
inductive Slot where
  | K | A | V | L | M | P | X | D
  deriving DecidableEq, Repr, Inhabited

/-- A decoded bundle (R92, R93): its flags and its present slots in ascending PRES order. -/
structure Bundle where
  flags : Flags
  slots : List Instr
  deriving DecidableEq, Repr

end Sys2Proof
end

