-- ==== Sys2Proof/Machine/Access.lean ====
section
/-! DEFINITION. Which slot an instruction takes and which registers it reads and writes at issue: what the
checks of R64, R67, R70, R73 and subcode 9 of R111 speak of. -/
namespace Sys2Proof

/-- The register files that a slot can read or write at issue (R63); `tag` is the tag table, which counts as
one register (R380), and `sreg` the special registers (R355). -/
inductive RFile where
  | k | a | x | d | m | p | q | v | c | g | vg | tag | sreg
  deriving DecidableEq, Repr, Inhabited

/-- A register, or one 64-bit element of a v or q register (R80, R396). -/
structure RegId where
  file : RFile
  ix : Nat
  el : Option Nat := none
  deriving DecidableEq, Repr, Inhabited

/-- Two names meet when they can share a bit: an element meets its whole register. -/
def RegId.meets (r s : RegId) : Bool :=
  r.file == s.file && r.ix == s.ix && (r.el == none || s.el == none || r.el == s.el)

/-- Whether two lists of names share a register. -/
def clash (a b : List RegId) : Bool := a.any fun r => b.any r.meets

/-- The file codes of format AX (R101). -/
def axFile (code : BitVec 4) : Option RFile :=
  match code.toNat with
  | 0 => some .k | 1 => some .a | 2 => some .x | 3 => some .d | 4 => some .m
  | 5 => some .p | 6 => some .q | 7 => some .v | 8 => some .c
  | _ => none

/-- The number of registers of a file (R63, R65). -/
def RFile.size : RFile → Nat
  | .k => 16 | .a => 64 | .x => 16 | .d => 32 | .m => 16 | .p => 16 | .q => 16
  | .v => 640 | .c => 32 | .g => 16 | .vg => 8 | .tag => 1 | .sreg => 4096

/-- The slot of a form (R109); none for the steps of the other agents. -/
def Instr.slot : Instr → Option Slot
  | .br .. | .brk .. | .brx .. | .call .. | .fmt .. | .halt .. | .leave .. | .lit .. | .loop .. | .mfs ..
  | .mts .. | .opp .. | .phase .. | .rcm .. | .ret .. | .stat .. | .svc .. | .wait .. => some .K
  | .add .. | .addi .. | .and .. | .clz .. | .cmp .. | .div .. | .gand .. | .gnot .. | .gor .. | .ld ..
  | .max .. | .min .. | .movi .. | .mul .. | .mulh .. | .or .. | .popc .. | .rem .. | .sel .. | .shl ..
  | .shr .. | .sra .. | .st .. | .sub .. | .xfr .. | .xor .. => some .A
  | .vabs .. | .vadd .. | .vand .. | .vbcast .. | .vclamp .. | .vcmp .. | .vcompact .. | .vcvt ..
  | .vexp2 .. | .vfma .. | .vmax .. | .vmin .. | .vmov .. | .vmul .. | .vor .. | .vperm .. | .vrcp ..
  | .vred .. | .vrsq .. | .vscan .. | .vsel .. | .vshl .. | .vshr .. | .vsub .. | .vxor .. => some .V
  | .aadd .. | .aaddf .. | .acas .. | .aswap .. | .tagi .. | .tagl .. | .tagw .. | .vld .. | .vlde ..
  | .vldx .. | .vst .. | .vstx .. => some .L
  | .manch .. | .mdrain .. | .mma .. | .mmas .. | .mzero .. => some .M
  | .pcheck .. | .pdot .. | .pgrp .. | .pscan .. | .pscore .. => some .P
  | .xget .. | .xmv .. | .xmvi .. => some .X
  | .atomm .. | .atomr .. | .cbar .. | .cpy .. | .cpyg .. | .cpys .. | .cpyx .. | .cred .. | .fence ..
  | .gdone .. | .gtrig .. | .notify .. | .tokj .. => some .D
  | .emptyBundle .. | .checkpointCommit .. | .clusterWake .. | .mizzenPrioritySwap .. | .gangMemberExecute ..
  | .engineBind .. | .engineStart .. | .virtualEngineFinish .. | .virtualEngineRetire .. | .conv ..
  | .pack .. | .tran .. | .sum .. | .xOperationRetire .. | .copyComplete .. | .dOperationComplete ..
  | .translationFault .. | .faultResume .. | .faultAbort .. | .tlbInvalidate ..
  | .accessCounterThreshold .. | .trapTaken .. | .safePointOverdue .. | .trapContinue ..
  | .trapEscalate .. | .contextTerminate .. | .preemptionRequest .. | .preemptionLand ..
  | .contextRestore .. | .queueNop .. | .launch .. | .ib .. | .signal .. | .waitmem .. | .waitmemPoll ..
  | .graphload .. | .graphrun .. | .queueRestart .. | .launchStart .. | .launchComplete ..
  | .triggerWrite .. | .graphRunStart .. | .graphNodeComplete .. | .policyPick .. | .policyEnqueue ..
  | .policyTimeSlice .. | .policyLoad .. | .queueMap .. | .queueUnmap .. | .queueUnmapComplete ..
  | .ualinkDoorbellWrite .. | .uetNotifyMessage .. | .ualinkTriggerWrite .. | .notifyAckTimeout ..
  | .peerWrite .. | .peerRead .. | .peerReadAnswer .. | .peerAtomic .. | .routerPacketArrival ..
  | .treeDeadline .. | .barrierComplete .. | .egressSend .. | .recoveryPoint ..
  | .recoveryPointComplete .. | .uncorrectableMemoryError .. | .coreHardwareError .. | .evtake ..
  | .evack .. | .nymenCrash .. | .nymenThaw .. | .warmRestartTimeout .. | .coldReset .. | .bootImage ..
  | .fuseMinimumRaise .. | .getMeasurements .. | .partitionCreate .. | .partitionResize ..
  | .partitionDestroy .. | .keySlotLoad .. | .mastRegisterWrite .. | .debugUnlock .. | .debugStop ..
  | .debugAccess .. | .debugSessionEnd .. | .arbiterEpoch .. | .droopEvent .. | .droopPenaltyEnd ..
  | .clusterIdle .. | .clusterReactivate .. | .lendingRecallComplete .. | .oppTransitionComplete ..
  | .meterWindowEnd .. | .thermalLimit .. | .mastTimer .. | .ethernetLinkTraining ..
  | .ualinkLinkTraining .. | .pcieLinkTraining .. | .ucieModuleTraining .. | .correctedSoftError .. => none

/-- The guard of a slot (R97). LIT carries the guard g0. -/
def Instr.guard : Instr → Gd
  | .br g .. | .brk g .. | .brx g .. | .call g .. | .fmt g .. | .halt g | .leave g | .loop g .. | .mfs g ..
  | .mts g .. | .opp g .. | .phase g .. | .rcm g .. | .ret g .. | .stat g .. | .svc g .. | .wait g ..
  | .add g .. | .addi g .. | .and g .. | .clz g .. | .cmp g .. | .div g .. | .gand g .. | .gnot g ..
  | .gor g .. | .ld g .. | .max g .. | .min g .. | .movi g .. | .mul g .. | .mulh g .. | .or g ..
  | .popc g .. | .rem g .. | .sel g .. | .shl g .. | .shr g .. | .sra g .. | .st g .. | .sub g ..
  | .xfr g .. | .xor g .. | .vabs g .. | .vadd g .. | .vand g .. | .vbcast g .. | .vclamp g ..
  | .vcmp g .. | .vcompact g .. | .vcvt g .. | .vexp2 g .. | .vfma g .. | .vmax g .. | .vmin g ..
  | .vmov g .. | .vmul g .. | .vor g .. | .vperm g .. | .vrcp g .. | .vred g .. | .vrsq g ..
  | .vscan g .. | .vsel g .. | .vshl g .. | .vshr g .. | .vsub g .. | .vxor g .. | .aadd g ..
  | .aaddf g .. | .acas g .. | .aswap g .. | .tagi g .. | .tagl g .. | .tagw g .. | .vld g .. | .vlde g ..
  | .vldx g .. | .vst g .. | .vstx g .. => g
  | .manch h .. | .mdrain h .. | .mma h .. | .mmas h .. | .mzero h .. | .pcheck h .. | .pdot h ..
  | .pgrp h .. | .pscan h .. | .pscore h .. | .xget h .. | .xmv h .. | .xmvi h .. | .atomm h ..
  | .atomr h .. | .cbar h | .cpy h .. | .cpyg h .. | .cpys h .. | .cpyx h .. | .cred h .. | .fence h ..
  | .gdone h .. | .gtrig h .. | .notify h .. | .tokj h => h.gd
  | _ => ⟨false, 0⟩

/-- The shared fields of an engine slot (R98). -/
def Instr.eh : Instr → Option Eh
  | .manch h .. | .mdrain h .. | .mma h .. | .mmas h .. | .mzero h .. | .pcheck h .. | .pdot h ..
  | .pgrp h .. | .pscan h .. | .pscore h .. | .xget h .. | .xmv h .. | .xmvi h .. | .atomm h ..
  | .atomr h .. | .cbar h | .cpy h .. | .cpyg h .. | .cpys h .. | .cpyx h .. | .cred h .. | .fence h ..
  | .gdone h .. | .gtrig h .. | .notify h .. | .tokj h => some h
  | _ => none

/-- The consume field of an L slot (R103). -/
def Instr.lct : Instr → BitVec 6
  | .aadd _ _ _ ct .. | .aaddf _ _ _ ct .. | .acas _ _ _ ct .. | .aswap _ _ _ ct .. | .vld _ _ _ ct ..
  | .vlde _ _ _ ct .. | .vldx _ _ _ ct .. | .vst _ _ _ ct .. | .vstx _ _ _ ct .. => ct
  | .tagl _ _ _ ct | .tagw _ _ _ ct => ct
  | .tagi _ _ ct => ct
  | _ => 0

/-- The S shape (R99) as a register name in file `f`. -/
def Src.reg (f : RFile) (s : Src) : RegId :=
  if flag s.op 7 then ⟨.c, (fld s.op 0 5).toNat, none⟩ else ⟨f, (fld s.op 0 7).toNat, none⟩

/-- What a marked S operand writes (R80). -/
def Src.marked (f : RFile) (s : Src) : List RegId := if s.mark then [s.reg f] else []

/-- What a marked VS operand writes (R80). -/
def VSrc.marked (s : VSrc) : List RegId := if s.mark then [⟨.v, s.r.toNat, none⟩] else []

/-- A v register. -/
def vId (r : BitVec 10) : RegId := ⟨.v, r.toNat, none⟩

/-- The BASE field of the L formats: a commons register, or nothing for a base of zero (R103). -/
def baseReads (b : BitVec 8) : List RegId := if b = 0 then [] else [⟨.c, (fld b 0 5).toNat, none⟩]

/-- The S operands of an A or K slot, with the file of each. -/
def Instr.srcs : Instr → List (RFile × Src)
  | .brx _ s | .ret _ s | .mts _ s _ => [(.k, s)]
  | .fmt _ (.reg s) | .opp _ (.reg s) | .phase _ (.reg s) | .rcm _ (.reg s) => [(.k, s)]
  | .loop _ (.reg s) _ => [(.k, s)]
  | .add _ _ s1 s2 _ | .and _ _ s1 s2 _ | .cmp _ _ s1 s2 _ _ | .div _ _ s1 s2 _ _ | .max _ _ s1 s2 _ _
  | .min _ _ s1 s2 _ _ | .mul _ _ s1 s2 _ | .mulh _ _ s1 s2 _ _ | .or _ _ s1 s2 _ | .rem _ _ s1 s2 _ _
  | .sel _ _ _ _ s1 s2 | .shl _ _ s1 s2 _ | .shr _ _ s1 s2 _ | .sra _ _ s1 s2 _ | .sub _ _ s1 s2 _
  | .xor _ _ s1 s2 _ => [(.a, s1), (.a, s2)]
  | .addi _ _ s1 _ _ | .clz _ _ s1 _ | .popc _ _ s1 _ => [(.a, s1)]
  | .ld _ _ sb _ _ _ => [(.a, sb)]
  | .st _ sd sb _ _ => [(.a, sd), (.a, sb)]
  | _ => []

/-- The VS operands of a V slot. -/
def Instr.vsrcs : Instr → List VSrc
  | .vadd _ _ a b _ | .vand _ _ a b _ | .vclamp _ _ a b _ | .vcmp _ _ a b _ _ | .vfma _ _ a b _
  | .vmax _ _ a b _ | .vmin _ _ a b _ | .vmul _ _ a b _ | .vor _ _ a b _ | .vperm _ _ a b _
  | .vsel _ _ _ _ a b | .vshl _ _ a b _ | .vshr _ _ a b _ | .vsub _ _ a b _ | .vxor _ _ a b _ => [a, b]
  | .vabs _ _ a _ | .vcompact _ _ _ _ a | .vcvt _ _ a _ _ | .vexp2 _ _ a _ | .vmov _ _ a _
  | .vrcp _ _ a _ | .vred _ _ a _ _ | .vrsq _ _ a _ | .vscan _ _ a _ _ => [a]
  | _ => []

/-- The destination of a V slot. -/
def Instr.vdest : Instr → List (BitVec 10)
  | .vabs _ vd .. | .vadd _ vd .. | .vand _ vd .. | .vbcast _ vd .. | .vclamp _ vd .. | .vcompact _ vd ..
  | .vcvt _ vd .. | .vexp2 _ vd .. | .vfma _ vd .. | .vmax _ vd .. | .vmin _ vd .. | .vmov _ vd ..
  | .vmul _ vd .. | .vor _ vd .. | .vperm _ vd .. | .vrcp _ vd .. | .vred _ vd .. | .vrsq _ vd ..
  | .vscan _ vd .. | .vsel _ vd .. | .vshl _ vd .. | .vshr _ vd .. | .vsub _ vd .. | .vxor _ vd .. => [vd]
  | _ => []

/-- An operand of XFR as a register name (R101, R396). -/
def axReg (f : BitVec 4) (i : BitVec 10) (el : BitVec 7) : List RegId :=
  match axFile f with
  | some .c => [⟨.c, (fld i 0 5).toNat, none⟩]
  | some .v => [⟨.v, i.toNat, some el.toNat⟩]
  | some .q => [⟨.q, i.toNat, some el.toNat⟩]
  | some r => [⟨r, i.toNat, none⟩]
  | none => []

/-- A guard operand; g0 is no register that anything writes (R63). -/
def gId (g : BitVec 4) : List RegId := if g = 0 then [] else [⟨.g, g.toNat, none⟩]

/-- The pair d(n), d(n + 1) of a D command (R190, R206, R218). -/
def dPair (d : BitVec 5) : List RegId := [⟨.d, d.toNat, none⟩, ⟨.d, d.toNat + 1, none⟩]

/-- The v registers that an L slot names, in field order. -/
def Instr.lregs : Instr → List RegId
  | .aadd _ v _ _ vi _ | .aaddf _ v _ _ vi _ | .aswap _ v _ _ vi _ => [vId v, vId vi]
  | .acas _ v _ _ vi _ => [vId v, ⟨.v, v.toNat + 1, none⟩, vId vi]
  | .tagi _ v _ => [vId v]
  | .tagl _ v w _ | .tagw _ v w _ => [vId v, vId w]
  | .vld _ v .. | .vlde _ v .. | .vst _ v .. => [vId v]
  | .vldx _ v _ _ vi _ => [vId v, vId vi]
  | .vstx _ v _ _ vi _ _ => [vId v, vId vi]
  | _ => []

/-- The registers read by a form of the L, M, P, X or D slot. -/
def Instr.engReads : Instr → List RegId
  | .tagl _ _ w _ => [vId w, ⟨.tag, 0, none⟩]
  | .tagw _ v w _ => [vId v, vId w]
  | .tagi _ v _ => [vId v]
  | .vld _ _ b .. | .vlde _ _ b .. => baseReads b
  | .vst _ v b .. => vId v :: baseReads b
  | .vldx _ v b _ vi _ => vId v :: vId vi :: baseReads b
  | .vstx _ v b _ vi _ _ => vId v :: vId vi :: baseReads b
  | .aadd _ v b _ vi _ | .aaddf _ v b _ vi _ | .aswap _ v b _ vi _ => vId v :: vId vi :: baseReads b
  | .acas _ v b _ vi _ => vId v :: ⟨.v, v.toNat + 1, none⟩ :: vId vi :: baseReads b
  | .manch _ _ m | .mdrain _ _ m | .mzero _ _ m => [⟨.m, m.toNat, none⟩]
  | .mma _ _ ma mb => [⟨.m, ma.toNat, none⟩, ⟨.m, mb.toNat, none⟩]
  | .mmas _ _ ma mb _ => [⟨.m, 2 * ma.toNat, none⟩, ⟨.m, 2 * ma.toNat + 1, none⟩,
      ⟨.m, 2 * mb.toNat, none⟩, ⟨.m, 2 * mb.toNat + 1, none⟩]
  | .pcheck _ p | .pgrp _ p | .pscore _ p => [⟨.p, p.toNat, none⟩]
  | .pdot _ _ _ p => [⟨.p, p.toNat, none⟩]
  | .pscan _ _ p => [⟨.p, p.toNat, none⟩]
  | .xmv _ _ (.reg x) => [⟨.x, x.toNat, none⟩]
  | .atomm _ d _ | .atomr _ d _ | .cred _ d _ | .cpy _ d .. | .cpyg _ d .. | .cpys _ d .. | .cpyx _ d .. => dPair d
  | .gdone _ d | .gtrig _ d | .notify _ d => [⟨.d, d.toNat, none⟩]
  | _ => []

/-- The registers that a form reads at issue, its guard among them (R66, R67, R71). -/
def Instr.reads (i : Instr) : List RegId :=
  gId i.guard.g ++ i.srcs.map (fun p => p.2.reg p.1) ++ i.vsrcs.map (fun s => vId s.r) ++ i.engReads ++
  match i with
  | .mfs _ _ sr => [⟨.sreg, sr.toNat, none⟩]
  | .gand _ _ _ g1 _ g2 | .gor _ _ _ g1 _ g2 => gId g1 ++ gId g2
  | .gnot _ _ _ g1 => gId g1
  | .sel _ _ _ gs _ _ => gId gs
  | .xfr _ _ _ sf si _ el => axReg sf si el
  | .vbcast _ _ (.com c) => [⟨.c, (fld c 0 5).toNat, none⟩]
  | .vclamp _ vd .. | .vfma _ vd .. => [vId vd]
  | .vsel _ _ vg .. | .vcompact _ _ vg .. => [⟨.vg, vg.toNat, none⟩]
  | _ => []

/-- The registers that a form writes: results and last-read marks (R70, R80, R111). A token, PT among them, and PSCAN's q are no destination
fields for subcode 9 (log 46); the group check counts q (`qWrites` of Bundle.lean). -/
def Instr.writes (i : Instr) : List RegId :=
  (i.srcs.map fun p => p.2.marked p.1).flatten ++ (i.vsrcs.map VSrc.marked).flatten ++ i.vdest.map vId ++
  match i with
  | .call _ kd _ | .mfs _ kd _ | .stat _ kd _ => [⟨.k, kd.toNat, none⟩]
  | .mts _ _ sr => [⟨.sreg, sr.toNat, none⟩]
  | .fmt .. => [⟨.sreg, 0x00A, none⟩]
  | .add _ ad .. | .addi _ ad .. | .and _ ad .. | .clz _ ad .. | .div _ ad .. | .ld _ ad .. | .max _ ad ..
  | .min _ ad .. | .movi _ ad .. | .mul _ ad .. | .mulh _ ad .. | .or _ ad .. | .popc _ ad .. | .rem _ ad ..
  | .sel _ ad .. | .shl _ ad .. | .shr _ ad .. | .sra _ ad .. | .sub _ ad .. | .xor _ ad .. => [⟨.a, ad.toNat, none⟩]
  | .cmp _ gd .. | .gand _ gd .. | .gnot _ gd .. | .gor _ gd .. => gId gd
  | .xfr _ df di sf si l el => axReg df di el ++ if l then axReg sf si el else []
  | .vcmp _ vgd .. => [⟨.vg, vgd.toNat, none⟩]
  | .vld _ v .. | .vlde _ v .. | .acas _ v .. | .aswap _ v .. | .tagl _ v .. => [vId v]
  | .vldx _ v _ _ vi li => vId v :: if li then [vId vi] else []
  | .vst _ v _ _ l _ => if l then [vId v] else []
  | .vstx _ v _ _ vi li dm => (if dm then [vId v] else []) ++ if li then [vId vi] else []
  | .tagw .. | .tagi .. => [⟨.tag, 0, none⟩]
  | .xget _ _ x => [⟨.x, x.toNat, none⟩]
  | _ => []

/-- The vector registers that a form names, in the order its fields have them (RegAllot, R65). -/
def Instr.vregs (i : Instr) : List Nat :=
  i.vdest.map (·.toNat) ++ i.vsrcs.map (·.r.toNat) ++ (i.lregs.map (·.ix)) ++
  match i with
  | .xfr _ df di sf si _ _ =>
      (if axFile df = some .v then [di.toNat] else []) ++ (if axFile sf = some .v then [si.toNat] else [])
  | _ => []

/-- The tile that a form names (RegAllot, R130). -/
def Instr.tile : Instr → Option Nat
  | .stat _ _ z => some z.toNat
  | .manch _ z _ | .mdrain _ z _ | .mzero _ z _ => some z.toNat
  | .mma _ z .. | .mmas _ z .. | .pdot _ z .. => some z.toNat
  | _ => none

/-- The commons reads of a form: port and index (R64). -/
def Instr.commons (i : Instr) : List (Nat × Nat) :=
  let rd (c : BitVec 8) : Nat × Nat := ((fld c 5 2).toNat, (fld c 0 5).toNat)
  ((i.srcs.map (·.2)).filter (fun s => flag s.op 7)).map (fun s => rd s.op) ++
  match i with
  | .xfr _ _ _ sf si _ _ => if sf = 8 then [rd (si.setWidth 8)] else []
  | .vbcast _ _ (.com c) => if flag c 7 then [rd c] else []
  | .aadd _ _ b .. | .aaddf _ _ b .. | .acas _ _ b .. | .aswap _ _ b .. | .vld _ _ b .. | .vlde _ _ b ..
  | .vldx _ _ b .. | .vst _ _ b .. | .vstx _ _ b .. => if flag b 7 then [rd b] else []
  | _ => []

/-- Whether a form takes the bundle's literal (R73, R105). -/
def Instr.takesLit : Instr → Bool
  | .addi _ _ _ lt _ | .movi _ _ lt _ | .vbcast _ _ (.imm lt _) | .xmvi _ _ lt _ => lt
  | _ => false

end Sys2Proof
end

