-- ==== Sys2Proof/Machine/CoreState.lean ====
section
/-! DEFINITION. The state of one core and its two streams: registers and their duplicate (R61 to R89), tokens
(R163), engine queues (R170), tiles (R43, R44, R130), scratchpad and program store (R16), and what a launch, a
trap and a pre-emption leave there. Plain data only. -/
namespace Sys2Proof.Machine

/-- A loop-stack entry (R79). -/
structure LoopEntry where
  count : W32 := 0
  exit : W48 := 0
  start : W48 := 0
  deriving DecidableEq, Repr, Inhabited

/-- An armed hold: the slot and the literal that it took (R74). -/
structure Hold where
  instr : Instr
  lit : Option W32 := none
  deriving DecidableEq, Repr

/-- The armed holds of the four engine slots (R74, R75). -/
structure Holds where
  m : Option Hold := none
  p : Option Hold := none
  x : Option Hold := none
  d : Option Hold := none
  deriving DecidableEq, Repr, Inhabited

/-- A decoded fan block (R145 to R149). -/
structure Fan where
  perm : List Nat
  scale : BitVec 24
  df : BitVec 4
  base : List Byte
  diff : List (List Int)
  deriving DecidableEq, Repr, Inhabited

/-- A slot of the fan store (R147). -/
inductive FanSlot where
  | empty
  | valid (f : Fan)
  | bad (code : Nat)
  deriving DecidableEq, Repr, Inhabited

/-- A set entry of a phase (R177): engine code, write set, first byte, length. -/
structure SetEntry where
  eng : Nat
  write : Bool
  start : Nat
  len : Nat
  deriving DecidableEq, Repr, Inhabited

/-- The phase in progress (R176 to R178, R200) and, per level, the KINDs of the PHASEs of the launch, first one first; their
number is the count of R198. -/
structure PhaseInfo where
  active : Bool := false
  kind : Bool := false
  sets : Option (List SetEntry) := none
  kinds : SMap (List Bool) := []
  deriving DecidableEq, Repr, Inhabited

/-- The trap frame of the user handler (R290). -/
structure TrapFrame where
  pc : W48 := 0
  loops : List LoopEntry := []
  holds : Holds := {}
  deriving DecidableEq, Repr, Inhabited

/-- An entry of the tag table (R172). -/
structure TagEntry where
  valid : Bool := false
  tag : W64 := 0
  deriving DecidableEq, Repr, Inhabited

/-- The full-duplicate rows of R82: what a checkpoint copies and a rollback restores. An unlisted register
holds 0; an unlisted token names generation 0, which is set with status 0; an unlisted tag is 0 and not VALID. -/
structure Regs where
  k : SMap W64 := []
  a : SMap W64 := []
  x : SMap W64 := []
  d : SMap W64 := []
  m : SMap W64 := []
  p : SMap W64 := []
  c : SMap W64 := []
  g : BitVec 16 := 1
  vg : SMap LaneMask := []
  t : SMap Nat := []
  pc : W48 := 0
  loops : List LoopEntry := []
  holds : Holds := {}
  fmtr : W64 := 0x600
  fmtPend : Option (W64 × Nat) := none
  slack : W64 := 0xFFFF
  dom : W64 := 4
  rcm : BitVec 10 := 0
  tags : SMap TagEntry := []
  fans : SMap FanSlot := []
  xparam : SMap W64 := []
  packRes : W64 := 0
  sumRes : W64 := 0
  phase : PhaseInfo := {}
  handler : Option TrapFrame := none
  deriving DecidableEq, Repr, Inhabited

/-- One generation of a token register (R163, R164). -/
structure Gen where
  set : Bool := true
  bind : BitVec 2 := 0
  status : Nat := 0
  deriving DecidableEq, Repr, Inhabited

/-- An element of a tile: V and its side flags (R43, R44). -/
structure Acc where
  v : W128 := 0
  fl : Byte := 0
  deriving DecidableEq, Repr, Inhabited

/-- An accumulator tile (R130): element (i, j) at 128 i + j, the anchor, TSTAT, and, for each drain whose TSTAT is
not readable yet, the latest first, the cycle from which it is and what TSTAT was before (R140). -/
structure Tile where
  z : SMap Acc := []
  anchor : BitVec 10 := 0
  tstat : W64 := 0
  late : List (Nat × W64) := []
  owner : Option Nat := none
  deriving DecidableEq, Repr, Inhabited

/-- The copy commands (R218). -/
inductive CpyKind where
  | cpy | cpyg | cpys | cpyx
  deriving DecidableEq, Repr, Inhabited

/-- What an engine operation does, with the register operands and formats that it captured at issue (R166).
Tiles are physical (R130). -/
inductive OpBody where
  | mma (z : Nat) (da db : W64) (sa sb : Option W64) (fa fb : BitVec 4)
  | manch (z : Nat) (d : W64)
  | mzero (z : Nat) (d : W64)
  | mdrain (z : Nat) (d : W64) (mo : BitVec 4)
  | pcheck (d : W64) (px : BitVec 4)
  | pdot (z q : Nat) (d : W64)
  | pgrp (d : W64)
  | pscan (q : Nat) (d : W64) (px : BitVec 4)
  | pscore (d : W64) (px : BitVec 4)
  | xget (port : BitVec 5) (x : BitVec 4)
  | xmove (dp : BitVec 5) (v : W64)
  | xresult (dp : BitVec 5) (sp : BitVec 5)
  | atom (ret : Bool) (va c : W64) (op : BitVec 4)
  | cbar (level : Nat)
  | cpy (kind : CpyKind) (d0 d1 : W64) (ac : BitVec 4) (ord : BitVec 2)
  | cred (d0 d1 : W64) (fxw : Bool)
  | fence (scope : BitVec 3) (sc : Bool)
  | gdone (d : W64)
  | gtrig (d : W64)
  | notify (d : W64)
  | tokj
  deriving DecidableEq, Repr, Inhabited

/-- A CRED whose status is still to come: its launch, stream and operation. -/
structure CredRef where
  launch : Nat
  r : SRef
  id : Nat
  deriving DecidableEq, Repr, Inhabited

/-- Where an M or P operation stands (R123, R127, R402): `passed` marks one that finished without being bound. A D
operation is `finished` once it has done all that it does and only a taken stream copy's place is kept (R226). -/
inductive Stage where
  | queued
  | bound
  | started
  | finished
  | passed
  deriving DecidableEq, Repr, Inhabited

/-- An operation in an engine queue. `bundle` is the issue number of its bundle, `out` the generation it
produces (0 for t0), `ins` the generations it consumes. `moved` counts what a D operation has done in the order
of R223; `fault` names the open fault record that suspends it (R239); `halted` marks one stopped under R300;
`inst` is the instance of a registered CRED (R207), or the operation that takes a stream copy; `feeds` lists the stream copies that an M operation
takes (R226); `data` is the record that a NOTIFY read at dispatch (R361), `sent` says that a GTRIG has made its trigger write, that peer
devices have been told of a CBAR (R203), or that the result block of a root CRED has been written; its token then waits for the CREDs `after`
(R210). `segs` holds the
extents of a copy once its index list has been read (R223, R240): device address, bytes, scratchpad address. `fan` and
`qs` are the fan slot and the q registers that a P operation read when it was bound (R160, R403); `crc` is the CRC of
the vectors that a CPYX has expanded so far (R221); `entered` numbers the terms of an MMA, MMAS or PDOT that have entered its tile
before its finish (R141, R161), and `taken` holds the bytes of its streamed operands from the first such entry on, at which its checks are over
(R403). `acted` lists the parts (first, number) of a copy's bytes or of an atomic's elements, in the order of R223, that have been done before the parts
below them, and `src` the scratchpad bytes that a write which a later operation has passed had read by then (R187, R188, R201). -/
structure Op where
  id : Nat
  bundle : Nat
  pc : W48
  opc : BitVec 7
  body : OpBody
  tok : BitVec 6 := 0
  out : Nat := 0
  ins : List Nat := []
  stage : Stage := .queued
  sub : Bool := false
  status : Nat := 0
  rank : BitVec 3 := 0
  bcyc : BitVec 24 := 0
  moved : Nat := 0
  fault : Option Nat := none
  halted : Bool := false
  inst : Option Nat := none
  feeds : List Nat := []
  sent : Bool := false
  data : List Byte := []
  segs : Option (List (Nat × Nat × Nat)) := none
  fan : FanSlot := .empty
  qs : List QReg := []
  crc : W32 := 0
  entered : List Nat := []
  taken : Option (List (List Byte)) := none
  acted : List (Nat × Nat) := []
  src : Option (SMap Byte) := none
  after : List CredRef := []
  deriving DecidableEq, Repr, Inhabited

/-- A held AADD or AADDF (R174): the format of AADDF, the width in bytes, and each lane's address and data. -/
structure HeldAtomic where
  addf : Option (BitVec 2)
  w : Nat
  lanes : List (Nat × W64)
  deriving DecidableEq, Repr, Inhabited

/-- A detected trap cause (R286, R287). -/
structure TrapCause where
  cause : Nat
  detail : BitVec 29 := 0
  pc : W48
  bundle : Nat
  gpos : BitVec 3 := 0
  deriving DecidableEq, Repr, Inhabited

/-- What follows the commit of a checkpoint at the boundary after a bundle. -/
inductive AfterCkpt where
  | go
  | halt
  | trap (t : TrapCause)
  | leaveHandler
  | preempt
  | freeze
  | debug
  deriving DecidableEq, Repr, Inhabited

/-- A checkpoint that waits for the M, P and X operations with identifiers below `before` (R81 step 1). `swap` says that the bundle before it
holds an ASWAP or ACAS, which no rollback crosses: it is committed first, whatever follows (R175). -/
structure CkptReq where
  before : Nat
  after : AfterCkpt := .go
  swap : Bool := false
  deriving DecidableEq, Repr, Inhabited

/-- Where a stream stands (R259, R288, R292, R346); `saved` is a stream at its pre-emption boundary whose image is still to be
written. -/
inductive RunState where
  | idle
  | running
  | halted
  | stopped
  | saved
  deriving DecidableEq, Repr, Inhabited

/-- A PHASE that waits (R176, R200); `before` is the identifier of its bundle's first operation, `sent` says that peer
devices of the fabric group have been told of its arrival (R203). -/
structure PhaseWait where
  value : W32
  pc : W48
  next : W48
  level : Nat := 0
  before : Nat := 0
  sent : Bool := false
  deriving DecidableEq, Repr, Inhabited

/-- The launch that a stream runs (R194, R257, R259): identifier, lead core, place in the gang, and what the
launch preset. `group` is its fabric group (R203), `node` the graph node that it runs (R264), `ended` says
that it has been terminated, by a hardware error or not (R260, R267). -/
structure LaunchInfo where
  id : Nat := 0
  ctx : Nat := 0
  lead : Nat := 0
  gpos : Nat := 0
  gsize : Nat := 1
  skew : BitVec 4 := 0
  det : Bool := false
  vcl : BitVec 10 := 0
  zt : Nat := 0
  tlen : Nat := 0
  group : Nat := 0
  node : Option (Nat × Nat) := none
  ended : Option Bool := none
  deriving DecidableEq, Repr, Inhabited

/-- A bundle on the Shroud that a member has yet to execute (R195): the bundle and its address; the lead's next
address, loop stack and transfer; whether the lead's guard held for a K slot that the lead alone decides, the return
address of a CALL, and what follows the bundle's checkpoint. -/
structure ShroudItem where
  bundle : Bundle
  pc : W48
  npc : W48
  next : W48
  loops : List LoopEntry
  taken : Bool
  on : Bool := false
  kd : Option (BitVec 4 × W64) := none
  after : Option AfterCkpt := none
  deriving DecidableEq, Repr

/-- Why a stream is held at a boundary (R298, R299, R303). -/
structure FreezeMarks where
  nymen : Bool := false
  recovery : Bool := false
  debug : Bool := false
  deriving DecidableEq, Repr, Inhabited

/-- The instances of a level that the domain of a stream had completed when its launch started (R197, R198): the number of its CBARs, and the KINDs of
each of its PHASEs. -/
structure Past where
  cbars : Nat := 0
  phases : List (List Bool) := []
  deriving DecidableEq, Repr, Inhabited

/-- Special registers and counters of a stream that no rollback restores (R128, R198, R285, R289, R290). `past` tells by level what its domain had
completed when it joined (R197). -/
structure StreamSys where
  tcause : W64 := 0
  faultpc : W64 := 0
  ckptpc : W64 := 0
  safemax : W64 := 0
  safeCount : Nat := 0
  blogm : List W64 := []
  blogp : List W64 := []
  seqm : Nat := 0
  seqp : Nat := 0
  oppReq : BitVec 3 := 5
  cbars : SMap Nat := []
  past : SMap Past := []
  gatedClusters : BitVec 10 := 0
  deriving DecidableEq, Repr, Inhabited

/-- Writes of a stream that a later D operation of it has passed under a fence (R188, R189, R201): the operations passed, of an ATOMR its targets, which nothing else writes until it has acted (`lock`), the scope within
which the fence's edge counts, and the physical ranges (first byte, bytes) that agents inside the scope do not read until the writes have
been made (log 26). The MODEL's own. -/
structure EarlyMark where
  passed : List Nat
  scope : Nat
  ranges : List (Nat × Nat)
  lock : List (Nat × Nat) := []
  deriving DecidableEq, Repr, Inhabited

/-- One stream of a core. `tileImgs` holds the tile images of R83, `statImgs` the TSTAT (and `late`) of a tile that was drained before its
first modification (a full duplicate under R82). `dupR` and `dupW` are the open group at the checkpoint (log 48). `preempt`, `freezeReq` and `debugReq` are requests that land at a safe boundary (R89, R299, R303). -/
structure Stream where
  regs : Regs := {}
  dup : Regs := {}
  q : SMap QReg := []
  beforeV : List (Nat × VReg) := []
  beforeQ : List (Nat × QReg) := []
  withheld : SMap (Option Byte) := []
  atoms : List HeldAtomic := []
  tileImgs : List (Nat × Tile) := []
  statImgs : List (Nat × W64 × List (Nat × W64)) := []
  mq : List Op := []
  pq : List Op := []
  xq : List Op := []
  dheld : List Op := []
  dq : List Op := []
  gens : SMap Gen := []
  nextId : Nat := 1
  nextGen : Nat := 1
  dupId : Nat := 1
  bundleNo : Nat := 0
  sys : StreamSys := {}
  run : RunState := .idle
  bank : Option Nat := none
  launch : Option LaunchInfo := none
  traps : List TrapCause := []
  ckpt : Option CkptReq := none
  ckptAt : Option W48 := none
  preempt : Bool := false
  freezeReq : Bool := false
  debugReq : Bool := false
  phaseWait : Option PhaseWait := none
  groupR : List RegId := []
  groupW : List RegId := []
  dupR : List RegId := []
  dupW : List RegId := []
  shroud : List ShroudItem := []
  frozen : FreezeMarks := {}
  early : List EarlyMark := []
  deriving DecidableEq, Repr

/-- A cached translation (R236): context, first virtual byte, first physical byte, size, and the leaf's bits. -/
structure TlbEntry where
  ctx : Nat
  va : Nat
  pa : Nat
  size : Nat
  leaf : W64
  deriving DecidableEq, Repr, Inhabited

/-- The power state of a core (R306, R310 to R315); `declared` sums the weights of the bundles of the meter's window of 64
cycles, `used` is the energy that the meter reports for it (R315). `due` counts the cycles
in which an OPP bundle that waited for the end of a transition goes before the next one (R311). -/
structure CorePower where
  pgrant : W64 := 0x0700100000000000
  bucket : Int := 0x100000
  point : Nat := 5
  trans : Option Nat := none
  due : Nat := 0
  used : Option Nat := none
  declared : Nat := 0
  deriving DecidableEq, Repr, Inhabited

/-- What the lane cycles of R125 depend on: whether a bundle with a V slot has issued in the current cycle, how many cycles
before it in a row were no lane cycles (up to 3), whether both substitutes were in progress in the last cycle, and the virtual
engine that takes the next lane cycle while they are. -/
structure LaneState where
  used : Bool := false
  dry : Nat := 0
  both : Bool := false
  turn : Eng := .m
  deriving DecidableEq, Repr, Inhabited

/-- A cycle in which one stream has had its turn and the other may still take its own (R120, R313): the first stream, the slots
that its bundle occupies apart from M and P, and whether it took a whole-core stall bundle. The MODEL's own. -/
structure HalfCycle where
  first : Strm
  occ : List Slot := []
  stall : Bool := false
  deriving DecidableEq, Repr, Inhabited

/-- One core (R16). `mizBlocked` counts the consecutive cycles up to cycle `mizAt` in which R120 alone kept a Mizzen bundle back,
`swap` says that the next cycle's order is reversed (R121), and `undo` is the scratchpad log: context, line, old bytes (R299). An unlisted vector register holds 0, an unlisted scratchpad or program byte reads 0. -/
structure Core where
  main : Stream := {}
  miz : Stream := {}
  v : SMap VReg := []
  tiles : SMap Tile := []
  spad : SMap Byte := []
  prog : SMap Byte := []
  clusterOwner : SMap (Option Nat) := []
  cycle : W64 := 0
  tsense : W64 := 0
  vsense : W64 := 0
  mizBlocked : Nat := 0
  mizAt : W64 := 0
  swap : Bool := false
  lane : LaneState := {}
  half : Option HalfCycle := none
  power : CorePower := {}
  quiet : Nat := 0
  tlb : List TlbEntry := []
  undo : List (Nat × Nat × List Byte) := []
  deriving DecidableEq, Repr

end Sys2Proof.Machine
end

