-- ==== Sys2Proof/Machine/Num.lean ====
section
/-! DEFINITION. The element formats, exact values, the two roundings, conversions (R32 to R34, R49 to R53) and
the binary32 functions of the vector slot (R384, R386, R389, R394). -/
namespace Sys2Proof

/-- An exact extended value: NaN, a signed infinity, a signed zero, or (−1)^neg · m · 2^e with m > 0. -/
inductive Num where
  | nan
  | inf (neg : Bool)
  | zero (neg : Bool)
  | fin (neg : Bool) (m : Nat) (e : Int)
  deriving DecidableEq, Repr, Inhabited

/-- The scalar element formats of R107 that hold a value by themselves. -/
inductive Fmt where
  | int8 | e4m3 | e5m2 | bf16 | fp16 | fp32 | int32 | s24
  deriving DecidableEq, Repr, Inhabited

/-- The format codes of R107. -/
def Fmt.ofCode (c : BitVec 4) : Option Fmt :=
  match c.toNat with
  | 0 => some .int8 | 2 => some .e4m3 | 3 => some .e5m2 | 4 => some .bf16 | 5 => some .fp16
  | 6 => some .fp32 | 7 => some .int32 | 8 => some .s24
  | _ => none

/-- Size in bytes. -/
def Fmt.size : Fmt → Nat
  | .int8 | .e4m3 | .e5m2 => 1
  | .bf16 | .fp16 => 2
  | .s24 => 3
  | .fp32 | .int32 => 4

/-- Width in bits. -/
def Fmt.width (f : Fmt) : Nat := 8 * f.size

/-- Integer formats (R32). -/
def Fmt.isInt : Fmt → Bool
  | .int8 | .int32 => true
  | _ => false

/-- Fraction bits M (R33). -/
def Fmt.frac : Fmt → Nat
  | .e4m3 => 3 | .e5m2 => 2 | .bf16 => 7 | .fp16 => 10 | .fp32 => 23 | .s24 => 15
  | .int8 | .int32 => 0

/-- Exponent bias B (R33). -/
def Fmt.bias : Fmt → Int
  | .e4m3 => 7 | .e5m2 | .fp16 => 15 | .bf16 | .fp32 | .s24 => 127
  | .int8 | .int32 => 0

/-- The all-ones exponent field (R33). -/
def Fmt.expMax : Fmt → Nat
  | .e4m3 => 15 | .e5m2 | .fp16 => 31 | .bf16 | .fp32 | .s24 => 255
  | .int8 | .int32 => 0

/-- The sign bit of an encoding. -/
def Fmt.signBit (f : Fmt) : Nat := 2 ^ (f.width - 1)

/-- The magnitude bits of the largest finite value (R33). -/
def Fmt.maxFin (f : Fmt) : Nat :=
  match f with
  | .e4m3 => 0x7E
  | f => f.expMax * 2 ^ f.frac - 1

/-- The magnitude bits of the largest finite value whose last fraction bit is 1 (R52). -/
def Fmt.maxOdd (f : Fmt) : Nat :=
  match f with
  | .e4m3 => 0x7D
  | f => f.maxFin

/-- Attach a sign. -/
def Fmt.withSign (f : Fmt) (neg : Bool) (mag : Nat) : Nat := if neg then f.signBit + mag else mag

/-- CanonNaN (R50). -/
def Fmt.canonNaN : Fmt → Nat
  | .fp32 => 0x7FC00000 | .bf16 => 0x7FC0 | .fp16 => 0x7E00 | .e5m2 => 0x7E | .e4m3 => 0x7F
  | .int8 => 0 | .int32 => 0 | .s24 => 0x7FC000

/-- The ±∞ entry of R50. -/
def Fmt.infinity (f : Fmt) (neg : Bool) : Nat :=
  match f with
  | .e4m3 => if neg then 0xFE else 0x7E
  | .int8 => if neg then 0x80 else 0x7F
  | .int32 => if neg then 0x80000000 else 0x7FFFFFFF
  | f => f.withSign neg (f.expMax * 2 ^ f.frac)

/-- The result for an overflowing finite value (R50). -/
def Fmt.overflow (f : Fmt) (neg : Bool) : Nat := f.infinity neg

/-- Zero(fmt, neg) of R49; integer formats have one zero. -/
def Fmt.zero (f : Fmt) (neg : Bool) : Nat := if f.isInt then 0 else f.withSign neg 0

/-- The value of an integer. -/
def Num.ofInt (x : Int) : Num :=
  if x = 0 then .zero false else .fin (x < 0) x.natAbs 0

/-- The value that an encoding has (R32 to R34). -/
def Num.decode (f : Fmt) (bits : Nat) : Num :=
  match f with
  | .int8 => .ofInt (BitVec.ofNat 8 bits).toInt
  | .int32 => .ofInt (BitVec.ofNat 32 bits).toInt
  | f =>
    let neg := decide (bits / f.signBit % 2 = 1)
    let mag := bits % f.signBit
    let e := mag / 2 ^ f.frac
    let m := mag % 2 ^ f.frac
    if f = .e4m3 && mag = 0x7F then .nan
    else if f ≠ .e4m3 && e = f.expMax then (if m = 0 then .inf neg else .nan)
    else if e = 0 then (if m = 0 then .zero neg else .fin neg m (1 - f.bias - f.frac))
    else .fin neg (2 ^ f.frac + m) ((e : Int) - f.bias - f.frac)

/-- `m · 2^(e - u)` split into its integer part and what is discarded: below, at or above one half
(`0` exact, `1` below, `2` at, `3` above). -/
def scaled (m : Nat) (e u : Int) : Nat × Nat :=
  if u ≤ e then (m * 2 ^ (e - u).toNat, 0)
  else
    let k := (u - e).toNat
    let q := m / 2 ^ k
    let r := m % 2 ^ k
    let h := 2 ^ (k - 1)
    (q, if r = 0 then 0 else if r < h then 1 else if r = h then 2 else 3)

/-- Round to nearest, ties to even. -/
def rne (p : Nat × Nat) : Nat :=
  if p.2 = 3 ∨ (p.2 = 2 ∧ p.1 % 2 = 1) then p.1 + 1 else p.1

/-- The exponent of the leading bit and of the last place kept by format `f` for `m · 2^e` (R33). -/
def Fmt.lastPlace (f : Fmt) (m : Nat) (e : Int) : Int × Int :=
  let emin := 1 - f.bias
  let lead := max ((Nat.log2 m : Int) + e) emin
  (lead, lead - f.frac)

/-- The magnitude bits that hold `q` units of the last place, where the leading exponent is `lead`. A significand
that is carried to the next binade, or that is subnormal, gets its exponent field by the same sum. -/
def Fmt.magBits (f : Fmt) (lead : Int) (q : Nat) : Nat :=
  (lead - (1 - f.bias)).toNat * 2 ^ f.frac + q

/-- What a rounding gives: the bits, whether nonzero bits were discarded, whether a finite value overflowed. -/
structure Rounded where
  bits : Nat
  inexact : Bool
  ovf : Bool
  deriving DecidableEq, Repr, Inhabited

/-- RoundRNE of a nonzero finite value with the overflow rule of R50. A negative value that rounds to zero gives -0: R49 and R51 give the
sign of a zero for x = 0 only (log 54). -/
def roundFin (f : Fmt) (neg : Bool) (m : Nat) (e : Int) : Rounded :=
  if f.isInt then
    let p := scaled m e 0
    let q := rne p
    let lim := if neg then f.signBit else f.signBit - 1
    if q > lim then ⟨f.overflow neg, p.2 != 0, true⟩
    else ⟨if neg then (2 * f.signBit - q) % (2 * f.signBit) else q, p.2 != 0, false⟩
  else
    let (lead, u) := f.lastPlace m e
    let p := scaled m e u
    let mag := f.magBits lead (rne p)
    if mag > f.maxFin then ⟨f.overflow neg, p.2 != 0, true⟩
    else ⟨f.withSign neg mag, p.2 != 0, false⟩

/-- One conversion step with RoundRNE (R50, R51). -/
def Num.encode (f : Fmt) : Num → Nat
  | .nan => f.canonNaN
  | .inf neg => f.infinity neg
  | .zero neg => f.zero neg
  | .fin neg m e => (roundFin f neg m e).bits

/-- One intermediate step of a chain: round to odd (R52). -/
def Num.encodeOdd (f : Fmt) : Num → Nat
  | .nan => f.canonNaN
  | .inf neg =>
    if f.isInt then (if neg then f.signBit + 1 else f.signBit - 1) else f.infinity neg
  | .zero neg => f.zero neg
  | .fin neg m e =>
    if f.isInt then
      let p := scaled m e 0
      let q := if p.2 = 0 then p.1 else if p.1 % 2 = 1 then p.1 else p.1 + 1
      let lim := if neg ∧ p.2 = 0 then f.signBit else f.signBit - 1
      let q := if q > lim then f.signBit - 1 else q
      if neg then (2 * f.signBit - q) % (2 * f.signBit) else q
    else
      let (lead, u) := f.lastPlace m e
      let p := scaled m e u
      let mag := f.magBits lead p.1
      let mag := if p.2 ≠ 0 ∧ mag % 2 = 0 then mag + 1 else mag
      f.withSign neg (if mag > f.maxFin then f.maxOdd else mag)

/-- Convert of R51: one step. -/
def convert (frm dst : Fmt) (bits : Nat) : Nat := (Num.decode frm bits).encode dst

/-- A chain through one intermediate format (R52). -/
def convertVia (frm mid dst : Fmt) (bits : Nat) : Nat :=
  convert mid dst ((Num.decode frm bits).encodeOdd mid)

/-! ### Exact arithmetic -/

/-- The sign of a value; false for NaN. -/
def Num.neg : Num → Bool
  | .nan => false
  | .inf n | .zero n => n
  | .fin n _ _ => n

/-- Whether a value is a zero. -/
def Num.isZero : Num → Bool
  | .zero _ => true
  | _ => false

/-- The value with the other sign. -/
def Num.negate : Num → Num
  | .nan => .nan
  | .inf n => .inf !n
  | .zero n => .zero !n
  | .fin n m e => .fin (!n) m e

/-- Signed integer significand at exponent `u ≤ e`. -/
def signedAt (n : Bool) (m : Nat) (e u : Int) : Int :=
  let x : Int := ((m * 2 ^ (e - u).toNat : Nat) : Int)
  if n then -x else x

/-- The exact sum; a sum that cancels is +0, and −0 only comes of two −0 (R47, R53, R394). -/
def Num.add : Num → Num → Num
  | .nan, _ | _, .nan => .nan
  | .inf a, .inf b => if a = b then .inf a else .nan
  | .inf a, _ | _, .inf a => .inf a
  | .zero a, .zero b => .zero (a && b)
  | .zero _, y => y
  | x, .zero _ => x
  | .fin a m e, .fin b n f =>
    let u := min e f
    let s := signedAt a m e u + signedAt b n f u
    if s = 0 then .zero false else .fin (s < 0) s.natAbs u

/-- The exact product (R47). -/
def Num.mul : Num → Num → Num
  | .nan, _ | _, .nan => .nan
  | .inf a, .inf b => .inf (a != b)
  | .inf _, .zero _ | .zero _, .inf _ => .nan
  | .inf a, .fin b _ _ | .fin a _ _, .inf b => .inf (a != b)
  | .zero a, .zero b => .zero (a != b)
  | .zero a, .fin b _ _ | .fin a _ _, .zero b => .zero (a != b)
  | .fin a m e, .fin b n f => .fin (a != b) (m * n) (e + f)

/-- The exact sum of a list, −0 only when every summand is −0 (R394); +0 for no summand. -/
def Num.sum : List Num → Num
  | [] => .zero false
  | x :: t => t.foldl Num.add x

/-- A number that is neither NaN nor infinite. -/
def Num.finite : Num → Bool
  | .nan | .inf _ => false
  | _ => true

/-- A block sum multiplied by the scales that apply to it: the zero is −0 only when every scale is positive
(R47). The model's choices (log 57): a scale of +0 counts as positive; a block sum other than −0 times +0 is +0; an infinite block sum that meets a zero
scale, and an infinite scale that meets a zero one, give NaN. -/
def Num.scaleBy (s : Num) (scales : List Num) : Num :=
  match scales.foldl Num.mul s with
  | .zero _ => .zero (s == .zero true && scales.all fun x => !x.neg)
  | r => r

/-- The order of two values that are not NaN; −0 equals +0. -/
def Num.cmp : Num → Num → Ordering
  | .inf a, .inf b => compare b.toNat a.toNat
  | .inf a, _ => if a then .lt else .gt
  | _, .inf b => if b then .gt else .lt
  | .zero _, .zero _ => .eq
  | .zero _, .fin b _ _ => if b then .gt else .lt
  | .fin a _ _, .zero _ => if a then .lt else .gt
  | .fin a m e, .fin b n f =>
    let u := min e f
    compare (signedAt a m e u) (signedAt b n f u)
  | .nan, _ | _, .nan => .eq

/-- x < y, false with a NaN. -/
def Num.lt (x y : Num) : Bool := x != .nan && y != .nan && Num.cmp x y == .lt

/-! ### binary32 lanes -/

/-- The value of a binary32 lane. -/
def f32 (x : W32) : Num := .decode .fp32 x.toNat

/-- Round once to binary32. -/
def toF32 (x : Num) : W32 := BitVec.ofNat 32 (x.encode .fp32)

/-- x < y in the order of VMIN and VMAX, where −0 lies below +0 (R53). -/
def ltSigned (x y : Num) : Bool :=
  match x, y with
  | .zero a, .zero b => a && !b
  | _, _ => Num.lt x y

/-- VMAX of R53. -/
def f32Max (x y : W32) : W32 :=
  match f32 x, f32 y with
  | .nan, .nan => 0x7FC00000
  | .nan, _ => y
  | _, .nan => x
  | a, b => if ltSigned a b then y else x

/-- VMIN of R53. -/
def f32Min (x y : W32) : W32 :=
  match f32 x, f32 y with
  | .nan, .nan => 0x7FC00000
  | .nan, _ => y
  | _, .nan => x
  | a, b => if ltSigned b a then y else x

/-- The comparison of VCMP under .F32 (R386): any comparison with a NaN is false except .NE. -/
def f32Cmp (cc : Nat) (x y : W32) : Bool :=
  let a := f32 x
  let b := f32 y
  let nan := a == .nan || b == .nan
  match cc with
  | 0 => !nan && Num.cmp a b == .eq
  | 1 => nan || Num.cmp a b != .eq
  | 2 => Num.lt a b
  | 3 => !nan && Num.cmp a b != .lt
  | _ => false

/-- Floor of the square root of `n < 4^k`, bit by bit from bit k − 1 down. -/
def isqrt : Nat → Nat → Nat → Nat
  | 0, _, r => r
  | k + 1, n, r =>
    let t := r + 2 ^ k
    isqrt k n (if t * t ≤ n then t else r)

/-- 1/x rounded once (R389). -/
def f32Rcp (x : W32) : W32 :=
  match f32 x with
  | .nan => 0x7FC00000
  | .inf n => toF32 (.zero n)
  | .zero n => toF32 (.inf n)
  | .fin n m e =>
    let q := 2 ^ 64 / m
    toF32 (.fin n (2 * q + if 2 ^ 64 % m = 0 then 0 else 1) (-e - 65))

/-- 1/√x rounded once (R389). -/
def f32Rsq (x : W32) : W32 :=
  match f32 x with
  | .nan => 0x7FC00000
  | .inf n => if n then 0x7FC00000 else 0
  | .zero n => toF32 (.inf n)
  | .fin true _ _ => 0x7FC00000
  | .fin false m e =>
    -- x = m · 2^e with e made even, so 1/√x = √(2^128 / m) · 2^(−64 − e/2)
    let m2 := if e % 2 = 0 then m else 2 * m
    let e2 := if e % 2 = 0 then e else e - 1
    let n := 2 ^ 128 / m2
    let q := isqrt 65 n 0
    let exact := q * q * m2 = 2 ^ 128
    toF32 (.fin false (2 * q + if exact then 0 else 1) (-(e2 / 2) - 65))

/-- ln 2 in units of 2^−256. -/
def ln2 : Nat := 0xb17217f7d1cf79abc9e3b39803f2f6af40f343267298b62d8a0d175b8baafa2b

/-- The sum of t^k/k! from term k on, all in units of 2^−256, with `fuel` more terms. -/
def expSeries : Nat → Nat → Nat → Nat → Nat
  | 0, _, _, _ => 0
  | fuel + 1, t, k, term => term + expSeries fuel t (k + 1) (term * t / 2 ^ 256 / (k + 1))

/-- 2^x rounded once (R389). For x not an integer, 2^x is irrational: the series gives it to more than 200 bits
and the last bit below stands for what is discarded (log 13). -/
def f32Exp2 (x : W32) : W32 :=
  match f32 x with
  | .nan => 0x7FC00000
  | .inf n => if n then 0 else 0x7F800000
  | .zero _ => 0x3F800000
  | .fin n m e =>
    if e > 16 ∨ (Nat.log2 m : Int) + e ≥ 9 then (if n then 0 else 0x7F800000)
    else
      -- x in units of 2^−256: e ≥ −149, so the product is exact
      let fx := signedAt n m e (-256)
      let k := fx / 2 ^ 256
      let f := (fx % 2 ^ 256).toNat
      if f = 0 then toF32 (.fin false 1 k)
      else
        let s := expSeries 64 (f * ln2 / 2 ^ 256) 0 (2 ^ 256)
        toF32 (.fin false (2 * s + 1) (k - 257))

end Sys2Proof
end

