-- ==== Sys2Proof/Machine/Accum.lean ====
section
/-! DEFINITION. The exact accumulation window: AccTerm, re-anchoring, Drain, TSTAT flags, and the FXC cell
(R43 to R50, R55 to R57, R140). -/
namespace Sys2Proof.Machine

/-- Set or clear a flag bit. -/
def setFlag (fl : Byte) (n : Nat) (on : Bool) : Byte :=
  if on then fl ||| BitVec.ofNat 8 (2 ^ n) else fl &&& ~~~BitVec.ofNat 8 (2 ^ n)

/-- Set a flag bit when `on`; a flag once set stays set. -/
def orFlag (fl : Byte) (n : Nat) (on : Bool) : Byte := if on then setFlag fl n true else fl

/-- `Floor(x · 2^s)` and whether nonzero bits were discarded. -/
def floorShift (x : Int) (s : Int) : Int × Bool :=
  if 0 ≤ s then (x * 2 ^ s.toNat, false)
  else
    let k : Int := 2 ^ (-s).toNat
    (x / k, decide (x % k ≠ 0))

/-- Whether an integer fits 128 bits in two's complement. -/
def fits128 (n : Int) : Bool := decide (-(2 ^ 127) ≤ n) && decide (n < 2 ^ 127)

/-- AccTerm (R46): the term `t` enters an element under anchor `anchor`; `mal` says that it comes from a
malformed block. -/
def accTerm (e : Acc) (t : Num) (mal : Bool) (anchor : Int) : Acc :=
  let e :=
    match t with
    | .nan => { e with fl := setFlag e.fl 2 true }
    | .inf false => { e with fl := setFlag e.fl 3 true }
    | .inf true => { e with fl := setFlag e.fl 4 true }
    | .zero _ => e
    | .fin neg m x =>
      let (n, lost) := floorShift (if neg then -(m : Int) else m) (x - anchor + 96)
      let fl := orFlag e.fl 0 lost
      if fits128 n then ⟨wrap 128 (e.v.toInt + n), fl⟩ else { e with fl := setFlag fl 1 true }
  let fl := if t == .zero true then e.fl else setFlag e.fl 5 false
  { e with fl := orFlag fl 6 mal }

/-- ReAnchor (R48). -/
def reAnchor (e : Acc) (old new : Int) : Acc :=
  let (x, lost) := floorShift e.v.toInt (old - new)
  ⟨wrap 128 x, orFlag (orFlag e.fl 0 lost) 1 (!fits128 x)⟩

/-- What a drain gives: the bits, and the TSTAT flags of R140. -/
structure Drained where
  bits : Nat
  flags : Byte
  deriving DecidableEq, Repr, Inhabited

/-- Drain (R49) and the TSTAT flags that the element gives (R140, R354). -/
def drain (e : Acc) (anchor : Int) (f : Fmt) : Drained :=
  let b (n : Nat) : Bool := flag e.fl n
  let base := orFlag (orFlag (orFlag 0 6 (b 6)) 1 (b 1)) 0 (b 0)
  if b 2 || b 1 || (b 3 && b 4) then ⟨f.canonNaN, setFlag base 4 true⟩
  else if b 3 then ⟨f.infinity false, setFlag base 5 true⟩
  else if b 4 then ⟨f.infinity true, setFlag base 5 true⟩
  else
    let x := e.v.toInt
    if x = 0 then ⟨f.zero (b 5), base⟩
    else
      let r := roundFin f (x < 0) x.natAbs (anchor - 96)
      ⟨r.bits, orFlag (orFlag base 3 r.ovf) 2 r.inexact⟩

/-- The 24 bytes of an FXC cell that an atomic add changes (R55, R56): V and the flag word. -/
structure Fxc where
  v : W128
  fw : W64
  deriving DecidableEq, Repr, Inhabited

/-- The cell held in 32 bytes (R55). -/
def Fxc.ofBytes (bs : List Byte) : Fxc :=
  ⟨BitVec.ofNat 128 (leNat (bs.take 16)), BitVec.ofNat 64 (leNat ((bs.drop 16).take 8))⟩

/-- The cell's 24 bytes. -/
def Fxc.bytes (c : Fxc) : List Byte := leBytes 16 c.v.toNat ++ leBytes 8 c.fw.toNat

/-- A floating-point add to a cell (R56): AccTerm with A = 32; TRUNC goes to INX, OVF to RNG, and NZ and MAL are
not kept. -/
def Fxc.add (c : Fxc) (t : Num) : Fxc :=
  let r := accTerm ⟨c.v, fld c.fw 0 5 |>.setWidth 8⟩ t false 32
  ⟨r.v, (c.fw &&& ~~~(0x1F : W64)) ||| ((fld r.fl 0 5).setWidth 64)⟩

/-- Conversion of a cell (R57): Drain with A = 32, NZ = 0 and OVF = RNG. -/
def Fxc.drain (c : Fxc) (f : Fmt) : Nat :=
  (Sys2Proof.Machine.drain ⟨c.v, (fld c.fw 0 5).setWidth 8⟩ 32 f).bits

end Sys2Proof.Machine
end

