-- ==== Sys2Proof/Machine/SysState.lean ====
section
/-! DEFINITION. The state outside the cores. Plain data only. -/
namespace Sys2Proof.Machine

/-- A command packet's place in an indirect buffer (R255): next word's address, words left. -/
structure IbFrame where
  va : Nat
  left : Nat
  deriving DecidableEq, Repr, Inhabited

/-- A queue slot of the front end (R252 to R256). `pos` is the queue word at which the outermost packet in
progress begins, `ibs` the stack of indirect buffers with the innermost first, `waitmem` the WAITMEM that has
not yet succeeded (VA, REF, CMP), `got` the bytes that the access in progress has read or written, `fault` the record that holds it. -/
structure QSlot where
  qid : Option Nat := none
  ready : Bool := false
  pos : W64 := 0
  ibs : List IbFrame := []
  waitmem : Option (Nat × W64 × Nat) := none
  unmapping : Bool := false
  lastServed : Nat := 0
  servedUs : Nat := 0
  got : List Byte := []
  wrote : Nat := 0
  fault : Option Nat := none
  picked : Bool := false
  deriving DecidableEq, Repr, Inhabited

/-- What a queue keeps whether it is mapped or not: the launches and the graph runs that its SYNC waits for (R253), and whether it has
stopped (R256). -/
structure QWork where
  launches : List Nat := []
  runs : List Nat := []
  stopped : Bool := false
  deriving DecidableEq, Repr, Inhabited

/-- A launch that has been parsed and waits or loads (R259, R268): its payload, its owner, the queue or graph node
that it came from, the cores it may not use (R267), the position chosen, the bytes of its images read so far, the
address of its data image when it is not DVA, the snapshot area still to be written (R267), the queue word and depth
of its packet (R256), and the bytes of its data image that have landed in every member's scratchpad. -/
structure PendLaunch where
  id : Nat
  ctx : Nat
  words : List W32
  queue : Option Nat := none
  node : Option (Nat × Nat) := none
  avoid : List Nat := []
  pos : Option Nat := none
  text : List Byte := []
  data : List Byte := []
  dva : Option W64 := none
  snap : Option W64 := none
  wrote : Nat := 0
  fault : Option Nat := none
  word : W64 := 0
  depth : Nat := 0
  landed : Nat := 0
  deriving DecidableEq, Repr, Inhabited

/-- The kinds of graph nodes (R261). -/
inductive NodeKind where
  | run | copy | signal | empty
  deriving DecidableEq, Repr, Inhabited

/-- A node of a loaded graph (R261). -/
structure GNode where
  kind : NodeKind
  rst : Bool
  npred : Nat
  succ : List Nat
  body : List W32
  snap : W64
  deriving DecidableEq, Repr, Inhabited

/-- A node of a run in progress (R264, R267): not launched with its live count; a RUN node launched as the launch given
and re-executed `tries` times; another node at work, with the bytes read, the bytes written, the open fault and how often it has been
re-executed; or complete. -/
inductive NodeState where
  | waiting (count : Nat)
  | running (launch : Nat) (tries : Nat) (failedOn : List Nat)
  | busy (got : List Byte) (wrote : Nat) (fault : Option Nat) (tries : Nat)
  | complete
  deriving DecidableEq, Repr, Inhabited

/-- A run of a graph: the state of each node, the failed node, the codes that members have signalled with GDONE
(node, position, code), and the nodes whose snapshot has been copied (R267), each with the interval of the context's undo log that holds the
copy, if one does. -/
structure GRun where
  id : Nat
  nodes : List NodeState
  failed : Option Nat := none
  done : List (Nat × Nat × Nat) := []
  snaps : List (Nat × Option Nat) := []
  deriving DecidableEq, Repr, Inhabited

/-- Where a trigger write came from (R265): a stream's GTRIG, a queue with the run's number, or a peer. -/
inductive TrigFrom where
  | stream (r : SRef) (op : Nat)
  | queue (qid : Nat) (run : Nat)
  | peer
  deriving DecidableEq, Repr, Inhabited

/-- A trigger that is held (R265) or whose patches are being read: `fresh` says that its sender has not been answered;
`got` holds the bytes of the patch list read so far. -/
structure HeldTrig where
  value : W64
  src : TrigFrom
  fresh : Bool
  got : List Byte := []
  fault : Option Nat := none
  deriving DecidableEq, Repr, Inhabited

/-- A loaded task graph (R261 to R265). `wrote` and `fault` concern the write of DONEVA that ends a run. `left` holds the failed runs that
have ended and some of whose nodes have yet to finish, each with its node records (R264, R267). -/
structure Graph where
  nodes : List GNode
  plbase : W64
  doneva : W64
  bytes : Nat
  runs : Nat := 0
  run : Option GRun := none
  left : List (GRun × List GNode) := []
  held : Option HeldTrig := none
  wrote : Nat := 0
  fault : Option Nat := none
  deriving DecidableEq, Repr, Inhabited

/-- The front end and the task-graph scheduler (R250 to R268). `graphs` is keyed by 256 · context + GID, `cursors` holds
P of each partition, `groups` the fabric group of a launch, `triggers` the trigger writes that have arrived (context,
value, source), `work` what each queue keeps, by QID. -/
structure FrontEnd where
  slots : SMap QSlot := []
  work : SMap QWork := []
  pending : List PendLaunch := []
  nextLaunch : Nat := 1
  graphs : SMap (Option Graph) := []
  triggers : List (Nat × W64 × TrigFrom) := []
  nextRun : Nat := 1
  cursors : SMap Nat := []
  groups : SMap Nat := []
  stopped : Bool := false
  deriving DecidableEq, Repr

/-- An event record (R276): type, ordering key, two arguments, and the time in microseconds. -/
structure EventRec where
  type : Nat
  okey : W32
  arg0 : W64
  arg1 : W64
  time : Nat
  deriving DecidableEq, Repr, Inhabited

/-- A partition (R25, R268 to R271, R303, R304): the cursor P of its placement stands in FrontEnd. `current` is the
slot that its policy runs and `since` the time at which it was picked. -/
structure Partition where
  active : Bool := false
  cores : List Nat := []
  launchRec : W64 := 0xFFFFFFFF
  ppower : W64 := 0
  weight : W64 := 0
  policy : List W32 := []
  policyState : SMap W64 := []
  current : Option Nat := none
  since : Nat := 0
  unlocked : Bool := false
  agent : Bool := false
  mem : List (Nat × Nat) := []
  deriving DecidableEq, Repr, Inhabited

/-- The registry, the event queue and what the Mast cores handle (R276 to R278, R296). `deferred` holds the
records of sources that wait for room, `ending` the contexts that are being terminated, with REASON and whether a hardware
error is the cause (R297). -/
structure Mast where
  registry : SMap CtxEntry := []
  events : List EventRec := []
  deferred : List EventRec := []
  handling : SMap (Option EventRec) := []
  ending : SMap (Option (Nat × Bool)) := []
  parts : SMap Partition := []
  deriving DecidableEq, Repr

/-- The encryption state of device memory (R302): under which slot and which load of it each line was written, how
often each slot has been loaded, and to which partition it is allotted. Slot 0 is the Mast's. -/
structure Keys where
  lines : SMap (Option (Nat × Nat)) := []
  loads : SMap Nat := []
  owner : SMap (Option Nat) := []
  deriving DecidableEq, Repr, Inhabited

/-- An access counter (R242): context, 64 KiB block, count. -/
structure AccCount where
  ctx : Nat
  block : Nat
  count : Nat
  deriving DecidableEq, Repr, Inhabited

/-- The last-level TLB of a C-die, or the station TLBs of the IO-die (die 4), with its access counters, the one
incremented last at the end (R236, R242). -/
structure Die where
  tlb : List TlbEntry := []
  counters : List AccCount := []
  deriving DecidableEq, Repr, Inhabited

/-- What a translation fault suspends (R239, R254, R259, R262): a D operation, a peer request, a queue slot, the image
load of a launch, or a graph. -/
inductive FaultWho where
  | op (r : SRef) (id : Nat)
  | peer (n : Nat)
  | slot (k : Nat)
  | load (launch : Nat)
  | graph (ctx gid : Nat) (node : Option Nat)
  deriving DecidableEq, Repr, Inhabited

/-- An open record of the fault buffer (R239). -/
structure FaultRec where
  n : Nat
  ctx : Nat
  va : W64
  core : Nat := 0
  strm : Strm := .main
  src : Nat := 0
  cause : Nat
  level : Nat
  write : Bool
  tok : BitVec 6 := 0
  who : FaultWho
  deriving DecidableEq, Repr, Inhabited

/-- The delivery modes of the Ultra Ethernet transport (R211). -/
inductive UetMode where
  | rod | rud
  deriving DecidableEq, Repr, Inhabited

/-- Where a message goes, as the accepted peer-table entry says (R283): over UALink the station, the link and the peer's accelerator
identifier; over Ultra Ethernet the ports, the job, the endpoint's IPv6 address, the resource index, the traffic class, and the mode in
which a transfer is delivered (R211). -/
inductive PeerDest where
  | ualink (station link uaid : Nat)
  | uet (ports job faddr res tc : Nat) (mode : Option UetMode)
  deriving DecidableEq, Repr, Inhabited

/-- What the package sends to a peer: a write, a read or an atomic of a peer's memory (R211 to R215, R283), a message to a resource index
(R283), the answer or acknowledgement to request `n` of a station's link (R212, R284), and the arrival of a stream of a fabric group at its
k-th CBAR, or PHASE of a KIND, which peer devices of the group learn by Ultra Ethernet messages in ROD mode (R203). -/
inductive PeerMsg where
  | write (dest : PeerDest) (addr : Nat) (bytes : List Byte)
  | message (dest : PeerDest) (bytes : List Byte)
  | read (dest : PeerDest) (addr : Nat) (len : Nat)
  | atomic (dest : PeerDest) (addr : Nat) (op : BitVec 4) (bytes : List Byte)
  | answer (stn link n : Nat) (bytes : List Byte)
  | barrier (group : Nat) (r : SRef) (k : Nat) (phase : Option Bool)
  deriving DecidableEq, Repr, Inhabited

/-- A peer's request (R212). -/
inductive PeerAct where
  | read (len : Nat)
  | write (bytes : List Byte)
  | atomic (wide : Bool) (op : PeerOp) (opnd cmp : W64)
  deriving DecidableEq, Repr, Inhabited

/-- A peer's request that has not been answered yet: the number of its bytes that are done, those that a read has so far, and the fault record
that holds it. -/
structure PeerReq where
  n : Nat
  stn : Nat
  link : Nat
  ctx : Nat
  va : W64
  act : PeerAct
  moved : Nat := 0
  got : List Byte := []
  fault : Option Nat := none
  deriving DecidableEq, Repr, Inhabited

/-- A participant of a fabric group on a peer device (R203): the number of its CBARs that have arrived, and the KINDs of its PHASEs that
have. -/
structure Remote where
  id : Nat
  cbars : Nat := 0
  phases : List Bool := []
  deriving DecidableEq, Repr, Inhabited

/-- What a peer device tells of a participant of a fabric group (R203): it joins, it arrives at its next CBAR or PHASE, its launch ends. -/
inductive RemoteAct where
  | join | cbar | leave
  | phase (kind : Bool)
  deriving DecidableEq, Repr, Inhabited

/-- The notify engine, the peer table, the stations, what has left the package, the peers' requests and, by fabric group, the
participants on peer devices (R203, R212, R280 to R284). -/
structure Peers where
  queues : SMap QEntry := []
  table : SMap (List Byte) := []
  stations : SMap Station := []
  badQid : Nat := 0
  badLen : Nat := 0
  outbox : List PeerMsg := []
  reqs : List PeerReq := []
  nextReq : Nat := 0
  remotes : SMap (List Remote) := []
  deriving DecidableEq, Repr, Inhabited

/-- A write in the egress buffer (R214): its context, the stream that issued it, its recovery interval, whether its
interval has committed, and its size in bytes. -/
structure EgItem where
  ctx : Nat
  interval : Nat
  released : Bool
  size : Nat
  msg : PeerMsg
  deriving DecidableEq, Repr, Inhabited

/-- The saved image of one stream (R292, R293): its place, its context, its registers and queues, the contents of its
vector clusters and tiles, the scratchpad when SPAD = 1, and TDELEG and CONTAIN as they were. -/
structure SavedImg where
  r : SRef
  ctx : Nat
  st : Stream
  v : List (Nat × VReg) := []
  tiles : List (Nat × Tile) := []
  spad : Option (SMap Byte) := none
  tdeleg : W64 := 0
  contain : W64 := 0x000A0000
  deriving DecidableEq, Repr

/-- The boot of the package (R274, R275): stage 0 the ROM awaits the monitor, 1 the monitor awaits the substitute
microcode, 2 it awaits Nymen, 3 Nymen runs, 4 a stage of the boot has stopped, 5 Nymen runs and the agents' stage has stopped. `mailbox`
is the window of the boot mailbox. -/
structure Boot where
  stage : Nat := 0
  keyHash : List (List Byte) := []
  revoked : List Bool := []
  minSvn : SMap W32 := []
  owners : SMap OwnerKey := []
  measured : List (List Byte) := []
  mailbox : List Byte := []
  status : W64 := 0
  nymenHash : List Byte := []
  nymenImage : List Byte := []
  deriving DecidableEq, Repr, Inhabited

/-- A Nymen crash in progress (R298): the time at which it began. -/
structure Crash where
  since : Option Nat := none
  deriving DecidableEq, Repr, Inhabited

/-- A droop penalty in force (R307): die, cluster, partition, the REEF of each core before it, and the time at which it ends. -/
structure Droop where
  die : Nat
  cluster : Nat
  part : Nat
  reefs : List (Nat × Nat)
  ends : Nat
  deriving DecidableEq, Repr, Inhabited

/-- An entry of a die's lending table (R308): whether the cluster is idle, what each borrower core has of its power in mW,
and, while that is being recalled, the time by which it is done. -/
structure Lend where
  idle : Bool := false
  shares : List (Nat × Nat) := []
  recallAt : Option Nat := none
  deriving DecidableEq, Repr, Inhabited

/-- The power arbiter (R304 to R308): the previous grant of each partition and the last grant of each core, in mW, the lending
table by 9 · die + cluster, the droop penalties in force. -/
structure Arbiter where
  grants : SMap Nat := []
  cores : SMap Nat := []
  lending : SMap Lend := []
  penalties : List Droop := []
  deriving DecidableEq, Repr, Inhabited

/-- The memory controllers (R18, R316): corrected soft errors, the bandwidth left of each stack once a thermal limit is known, what each
partition is guaranteed of it, both in tenths of a GB/s, and the lines whose last error is uncorrectable; whether the boot monitor has trained the controllers (R274). -/
structure MemCtl where
  trained : Bool := false
  corrected : Nat := 0
  left : SMap Nat := []
  shares : SMap Nat := []
  bad : SMap Bool := []
  deriving DecidableEq, Repr, Inhabited

/-- The external and internal links (R19 to R24). Of an Ethernet port: its form, link-level retry, credit-based flow control. Of a UALink
station: its form; of a link of it, the rate. Of the PCI Express function: generation, width, flit mode, whether it is held in reset, how
often that was logged, the MSI-X vectors signalled so far, and the SPDM 1.3 response that its Data Object Exchange carries. The manual gives no
state of that link before its first training: the model has generation and width 0, not held in reset, and the function serves (log 50). -/
structure Links where
  eth : SMap EthForm := []
  llr : SMap Bool := []
  cbfc : SMap Bool := []
  forms : SMap UaForm := []
  ua : SMap UaRate := []
  pcieGen : Nat := 0
  pcieWidth : Nat := 0
  flit : Bool := false
  pcieHeld : Bool := false
  pcieLog : Nat := 0
  msix : List Nat := []
  doe : List (List Byte) := []
  ucie : SMap UcieState := []
  deriving DecidableEq, Repr, Inhabited

/-- An operand of a tree node (R207, R208): from child `src`, or the node's own contribution when `src` is the node; its
elements (FP32 bits in the low half of the first word, or V and the flag word of an FXC cell),
its DET bit, the CRED that waits for its status, the contexts it holds, the earlier CREDs of the contributors' streams (R210), and the sender's descriptor: core, parent and
children of each node, and DLN. `present` lists the cores whose contributions it holds: the missing nodes of R208 are the others. -/
structure TreePkt where
  src : Nat
  fxw : Bool
  vals : List (W128 × W64)
  present : List Nat := []
  det : Bool := false
  who : Option CredRef := none
  ctxs : List Nat := []
  after : List CredRef := []
  desc : List (Nat × Nat × List Nat) := []
  dln : Nat := 0
  raddr : Nat := 0
  deriving DecidableEq, Repr, Inhabited

/-- An instance of a tree held at a node (R207): its number, the children that have forwarded, the packets held, the own
contribution, the time at which its first operand arrived, and the senders of the packets with DET = 1 that have reached it, held or not (R208). -/
structure TreeInst where
  k : Nat
  heard : List Nat := []
  pkts : List TreePkt := []
  own : Option TreePkt := none
  since : Nat := 0
  detFrom : List Nat := []
  deriving DecidableEq, Repr, Inhabited

/-- A node of a tree at one core: the instances held, the oldest first, the numbers of those released, the number of the next CRED, and
whether a second instance has been taken beside the oldest one held (R207). -/
structure TreeNode where
  insts : List TreeInst := []
  gone : List Nat := []
  count : Nat := 0
  full : Bool := false
  deriving DecidableEq, Repr, Inhabited

/-- The number of a tree: a TID names one tree within its partition (R204). -/
def treeNo (part tid : Nat) : Nat := 65536 * part + tid

/-- The key of the node of a tree at a core. -/
def treeKey (core tree : Nat) : Nat := numCores * tree + core

/-- The core of a node's key. -/
def keyCore (key : Nat) : Nat := key % numCores

/-- The tree of a node's key. -/
def keyTree (key : Nat) : Nat := key / numCores

/-- The routers (R207 to R209): node state by core and tree, under `treeKey`, and the packets in the links (to core, tree, instance,
packet). -/
structure Fabric where
  nodes : SMap TreeNode := []
  flight : List (Nat × Nat × Nat × TreePkt) := []
  deriving DecidableEq, Repr, Inhabited

/-- The recovery state of a context (R299 to R301): the number of its interval, the time of its last recovery point, the
undo log of device-memory lines (address, old bytes, key) with the latest first, the recovery image (the streams, and the
tree nodes of their cores) with the area that holds it, whether one has been written, whether a recovery point is being
taken, whether a log or the egress buffer is full, whether the egress buffer has not taken a write of it (`shut`, R300), whether a barrier or tree instance asks for a recovery point, and the launches whose
writes have ended the protection (R215; 0 for a write of no launch, log 15). -/
structure Recov where
  interval : Nat := 0
  last : Nat := 0
  log : List (Nat × List Byte × Option (Nat × Nat)) := []
  images : List SavedImg := []
  nodes : SMap TreeNode := []
  area : Nat := 0
  valid : Bool := false
  taking : Bool := false
  full : Bool := false
  shut : Bool := false
  due : Bool := false
  lossBy : List Nat := []
  deriving DecidableEq, Repr

end Sys2Proof.Machine
end

