-- ==== Sys2Proof/Machine/State.lean ====
section
/-! DEFINITION. The machine: what State holds, the state after reset, and the reasons a step can stop. -/
namespace Sys2Proof.Machine

/-- Why the machine stops. -/
inductive Fault where
  /-- Raised by the step of any agent that names a core at or above 144, which the package does not have (R11,
  R12). Safe: no such event happens. -/
  | noSuchCore
  /-- Raised by a memory error, and by a Mast write, at a physical address at or above 2^39, which the package does not
  have (R17, R235). Safe: no such event happens. -/
  | noSuchAddress
  deriving DecidableEq, Repr

/-- Why an instruction has no next state. -/
inductive Refusal where
  /-- Raised by an arm of `exec` whose instruction has no meaning yet. Safe: nothing is claimed of it. -/
  | notModelled (mnemonic : String)
  deriving DecidableEq, Repr

/-- What the model runs next (the MODEL's own, log 1): an agent's step, a bundle of a stream, `n` core
cycles in which nothing issues, a cycle in which stream `r` waits on a latency (R67, R68), the terms `sel` of the operation at a place of a
virtual engine entering its tile before its finish (R141, R161), the parts `sel` of a D operation acting before what does not hold them back: writes
that the fence between lets them pass, an acquire or release that does not concern them (R187 to R189, R201, log 26), what a peer device tells of a fabric group (R203), or a sample of a core's sensors, temperature in 1/16 °C and droop in mV, with the rise of metered current of each partition in its cluster
(R307, R356, log 41). -/
inductive Turn where
  | event (i : Instr)
  | issue (r : SRef)
  | idle (core : Nat) (n : Nat)
  | stall (r : SRef)
  | terms (core : Nat) (e : Eng) (sub : Bool) (sel : List Nat)
  | early (r : SRef) (id : Nat) (sel : List (Nat × Nat))
  | remote (group id : Nat) (act : RemoteAct)
  | sense (core : Nat) (temp : BitVec 16) (droop : BitVec 12) (rise : List (Nat × Nat))
  deriving DecidableEq, Repr

/-- The bundle in issue (the MODEL's own): the core as every source of the bundle reads it (R66, R91), the
literal (R73), the next address (R96; a bundle of one slot when none is given), whether a slot has chosen the
next address, whether it is a taken control transfer (R70, R75), and whether BRK, SVC or HALT ends its holds (R332, R346, R379). -/
structure Frame where
  view : Option Core := none
  lit : Option W32 := none
  npc : Option W48 := none
  jumped : Bool := false
  taken : Bool := false
  unhold : Bool := false
  deriving DecidableEq, Repr

/-- The machine. `cur` is the stream that issues; `free` counts the free values drawn (log 12); `debugOut` and `debugBrk` are what the debug
window has shown: bytes read, and breakpoints with their TCAUSE (R303). -/
structure State where
  cores : SMap Core := []
  mem : List Host.Cell := []
  cur : SRef := ⟨0, .main⟩
  frame : Frame := {}
  agenda : List Turn := []
  time : Nat := 0
  free : Nat := 0
  fe : FrontEnd := {}
  mast : Mast := {}
  keys : Keys := {}
  dies : SMap Die := []
  faults : List FaultRec := []
  nextFault : Nat := 0
  peers : Peers := {}
  egress : List EgItem := []
  recov : SMap Recov := []
  saved : List SavedImg := []
  boot : Boot := {}
  crash : Crash := {}
  debugOut : List (List Byte) := []
  debugBrk : List (SRef × W64) := []
  arbiter : Arbiter := {}
  memctl : MemCtl := {}
  links : Links := {}
  fabric : Fabric := {}
  deriving DecidableEq, Repr

/-- The machine right after cold reset: no stream runs, every register holds its reset value, memory lists
nothing (logs 2, 3). -/
def State.reset : State := {}

end Sys2Proof.Machine
end

