-- ==== Sys2Proof/Machine/Store.lean ====
section
/-! DEFINITION. Sparse maps and byte stores: reading, writing, the canonical form. -/
namespace Sys2Proof

/-- The value at key `k`, or the default `d`. -/
def SMap.get {α : Type} (m : SMap α) (k : Nat) (d : α) : α :=
  match m with
  | [] => d
  | (j, v) :: t => if j = k then v else SMap.get t k d

/-- Remove key `k`. -/
def SMap.erase {α : Type} (m : SMap α) (k : Nat) : SMap α := m.filter fun p => p.1 != k

/-- Put `v` at key `k` into a list that has no entry at `k`, before the first larger key. -/
def SMap.place {α : Type} (m : SMap α) (k : Nat) (v : α) : SMap α :=
  match m with
  | [] => [(k, v)]
  | (j, w) :: t => if k < j then (k, v) :: (j, w) :: t else (j, w) :: SMap.place t k v

/-- Write `v` at key `k`, where unlisted keys hold `d`: writing `d` removes the entry. -/
def SMap.set {α : Type} [DecidableEq α] (m : SMap α) (k : Nat) (v d : α) : SMap α :=
  if v = d then m.erase k else (m.erase k).place k v

/-- Change every listed value. -/
def SMap.update {α : Type} [DecidableEq α] (m : SMap α) (f : α → α) (d : α) : SMap α :=
  m.foldl (fun l p => l.set p.1 (f p.2) d) []

/-- The canonical form: keys strictly rising, no entry equal to the default. -/
def SMap.canon {α : Type} [DecidableEq α] (d : α) : SMap α → Bool
  | [] => true
  | (k, v) :: t => decide (v ≠ d) && (t.all fun p => decide (k < p.1)) && SMap.canon d t

/-- `n` bytes from address `a`; an unlisted byte reads 0 (log 3). -/
def readBytes (m : SMap Byte) (a n : Nat) : List Byte :=
  (List.range n).map fun i => m.get (a + i) 0

/-- Write bytes from address `a` upwards. -/
def writeBytes (m : SMap Byte) (a : Nat) : List Byte → SMap Byte
  | [] => m
  | b :: t => writeBytes (m.set a b 0) (a + 1) t

/-- The little-endian value of `n` bytes at `a`. -/
def readLE (m : SMap Byte) (a n : Nat) : Nat := leNat (readBytes m a n)

/-- The canonical form of a byte store. -/
def Memory.wf (m : SMap Byte) : Bool := SMap.canon (0 : Byte) m

/-- InSpad of R320: the `n` bytes at `a` lie in the scratchpad. -/
def inSpad (a : Int) (n : Nat) : Bool := decide (0 ≤ a) && decide (a + n ≤ 0x1800000)

end Sys2Proof
end

