-- ==== Sys2Proof/Machine/Ops.lean ====
section
/-! DEFINITION. The named operations over registers, scratchpad, tokens and loops; the commit of a checkpoint,
the rollback; taking a trap and returning from one (R61 to R89, R163 to R175, R285 to R291). -/
namespace Sys2Proof.Machine

/-! ### Cores and streams -/

/-- A stream of a core. -/
def streamOf (c : Core) : Strm → Stream
  | .main => c.main
  | .miz => c.miz

/-- Replace a stream of a core. -/
def putStream (c : Core) (w : Strm) (st : Stream) : Core :=
  match w with
  | .main => { c with main := st }
  | .miz => { c with miz := st }

/-- The context that a stream runs for. -/
def Stream.owner (st : Stream) : Nat := (st.launch.map (·.ctx)).getD 0

/-- A stream runs a launch of a context. -/
def Stream.owns (st : Stream) (ctx : Nat) : Bool := (st.launch.map (·.ctx)) == some ctx

/-- Core `n`. -/
def State.core (s : State) (n : Nat) : Core := s.cores.get n {}

/-- A core that belongs to no partition is gated (R25). -/
def State.gated (s : State) (n : Nat) : Bool := !s.mast.parts.any fun p => p.2.active && p.2.cores.contains n

/-- Replace core `n`. -/
def State.setCore (s : State) (n : Nat) (c : Core) : State := { s with cores := s.cores.set n c {} }

/-- A stream of the package. -/
def State.stream (s : State) (r : SRef) : Stream := streamOf (s.core r.core) r.strm

/-- Replace a stream. -/
def State.setStream (s : State) (r : SRef) (st : Stream) : State :=
  s.setCore r.core (putStream (s.core r.core) r.strm st)

/-- Change a stream. -/
def State.updStream (s : State) (r : SRef) (f : Stream → Stream) : State := s.setStream r (f (s.stream r))

/-- Change the registers of a stream. -/
def State.updRegs (s : State) (r : SRef) (f : Regs → Regs) : State :=
  s.updStream r fun st => { st with regs := f st.regs }

/-- Change the unduplicated registers of a stream. -/
def State.updSys (s : State) (r : SRef) (f : StreamSys → StreamSys) : State :=
  s.updStream r fun st => { st with sys := f st.sys }

/-- Change a core. -/
def State.updCore (s : State) (n : Nat) (f : Core → Core) : State := s.setCore n (f (s.core n))

/-- The issuing stream. -/
def State.me (s : State) : Stream := s.stream s.cur

/-- The core that sources are read from: the core as it stood when the bundle issued (R66, R91). -/
def State.view (s : State) : Core := s.frame.view.getD (s.core s.cur.core)

/-- The issuing stream as sources see it. -/
def State.src (s : State) : Stream := streamOf s.view s.cur.strm

/-- The next address of the bundle in issue (R96). -/
def State.npc (s : State) : W48 := s.frame.npc.getD (s.src.regs.pc + 8)

/-- A stream copy: a CPY with DIR = 2 (R225). -/
def OpBody.isStreamCopy : OpBody → Bool
  | .cpy .cpy _ d1 _ _ => fld d1 62 2 == 2
  | _ => false

/-- Change the frame of the bundle in issue. -/
def State.setFrame (s : State) (f : Frame) : State := { s with frame := f }

/-! ### Registers -/

/-- A 64-bit register of a private file (R63). -/
def Regs.get (r : Regs) (f : RFile) (n : Nat) : W64 :=
  match f with
  | .k => r.k.get n 0 | .a => r.a.get n 0 | .x => r.x.get n 0 | .d => r.d.get n 0
  | .m => r.m.get n 0 | .p => r.p.get n 0 | .c => r.c.get n 0
  | .q | .v | .g | .vg | .tag | .sreg => 0

/-- Write a 64-bit register of a private file. -/
def Regs.put (r : Regs) (f : RFile) (n : Nat) (v : W64) : Regs :=
  match f with
  | .k => { r with k := r.k.set n v 0 } | .a => { r with a := r.a.set n v 0 }
  | .x => { r with x := r.x.set n v 0 } | .d => { r with d := r.d.set n v 0 }
  | .m => { r with m := r.m.set n v 0 } | .p => { r with p := r.p.set n v 0 }
  | .c => { r with c := r.c.set n v 0 }
  | .q | .v | .g | .vg | .tag | .sreg => r

/-- A guard register; g0 reads as 1 (R63). -/
def Regs.guard (r : Regs) (n : BitVec 4) : Bool := n == 0 || flag r.g n.toNat

/-- Write a guard register; a write to g0 is discarded (R63). -/
def Regs.setGuard (r : Regs) (n : BitVec 4) (b : Bool) : Regs :=
  if n = 0 then r
  else
    let m : BitVec 16 := BitVec.ofNat 16 (2 ^ n.toNat)
    { r with g := if b then r.g ||| m else r.g &&& ~~~m }

/-- A lane guard (R63). -/
def Regs.lane (r : Regs) (n : BitVec 3) : LaneMask := r.vg.get n.toNat 0

/-- Whether a slot's guard holds (R71). -/
def guardHolds (r : Regs) (g : Gd) : Bool := r.guard g.g != g.neg

/-- Reg(S) of R320: an S operand of a slot whose file is `f`, read through the commons when its flag says so
(R64). -/
def State.rd (s : State) (f : RFile) (x : Src) : W64 :=
  let r := x.reg f
  s.src.regs.get r.file r.ix

/-- The base of an L-slot address: a commons register, or 0 (R103). -/
def State.rdBase (s : State) (b : BitVec 8) : W64 :=
  if b = 0 then 0 else s.src.regs.get .c (fld b 0 5).toNat

/-- A vector register of the view. -/
def State.rdV (s : State) (n : Nat) : VReg := s.view.v.get n 0

/-- Element i of width w of a wide register (R320). -/
def elem {n : Nat} (v : BitVec n) (i w : Nat) : BitVec w := fld v (w * i) w

/-- Replace element i of width w. -/
def setElem {n : Nat} (v : BitVec n) (i w : Nat) (x : BitVec w) : BitVec n :=
  let m : BitVec n := BitVec.ofNat n ((2 ^ w - 1) * 2 ^ (w * i))
  (v &&& ~~~m) ||| BitVec.ofNat n (x.toNat * 2 ^ (w * i))

/-- The register whose elements, from element 0 upward, are the list; elements beyond it are 0. -/
def ofElems (n w : Nat) (l : List (BitVec w)) : BitVec n :=
  BitVec.ofNat n (l.foldr (fun x acc => acc * 2 ^ w + x.toNat) 0)

/-- The before-image of a vector register, taken at its first write after a checkpoint (R83). -/
def saveV (st : Stream) (n : Nat) (old : VReg) : Stream :=
  if st.beforeV.any fun p => p.1 == n then st else { st with beforeV := (n, old) :: st.beforeV }

/-- The before-image of a q register (R83). -/
def saveQ (st : Stream) (n : Nat) : Stream :=
  if st.beforeQ.any fun p => p.1 == n then st else { st with beforeQ := (n, st.q.get n 0) :: st.beforeQ }

/-- Write a vector register of a core on behalf of a stream. -/
def coreWriteV (c : Core) (w : Strm) (n : Nat) (v : VReg) : Core :=
  let c := putStream c w (saveV (streamOf c w) n (c.v.get n 0))
  { c with v := c.v.set n v 0 }

/-- Write a q register of a stream. -/
def streamWriteQ (st : Stream) (n : Nat) (v : QReg) : Stream :=
  let st := saveQ st n
  { st with q := st.q.set n v 0 }

/-- Write a vector register of the issuing stream. -/
def State.wrV (s : State) (n : Nat) (v : VReg) : State :=
  s.updCore s.cur.core fun c => coreWriteV c s.cur.strm n v

/-- Write a 64-bit register of the issuing stream. -/
def State.wr (s : State) (f : RFile) (n : Nat) (v : W64) : State := s.updRegs s.cur (·.put f n v)

/-- A register or element of the view, as XFR reads it (R396). -/
def State.rdId (s : State) (r : RegId) : W64 :=
  match r.file with
  | .v => elem (s.view.v.get r.ix 0) (r.el.getD 0) 64
  | .q => elem (s.src.q.get r.ix 0) (r.el.getD 0) 64
  | f => s.src.regs.get f r.ix

/-- Write a register, or one element of a v or q register, of the issuing stream (R396). -/
def State.wrId (s : State) (r : RegId) (v : W64) : State :=
  match r.file with
  | .v => s.wrV r.ix (setElem ((s.core s.cur.core).v.get r.ix 0) (r.el.getD 0) 64 v)
  | .q => s.updStream s.cur fun st => streamWriteQ st r.ix (setElem (st.q.get r.ix 0) (r.el.getD 0) 64 v)
  | f => s.wr f r.ix v

/-- A last-read mark: the register, or the element, reads zero afterwards (R80). -/
def State.zero (s : State) (r : RegId) : State :=
  match r.file, r.el with
  | .v, none => s.wrV r.ix 0
  | _, _ => s.wrId r 0

/-- The marks of an S operand. -/
def State.markSrc (s : State) (f : RFile) (x : Src) : State := (x.marked f).foldl State.zero s

/-- The marks of a VS operand. -/
def State.markV (s : State) (x : VSrc) : State := x.marked.foldl State.zero s

/-! ### Scratchpad -/

/-- SpadRead as a stream's slots and its M, P and X engines see it: withheld bytes over committed ones (R84,
R90). -/
def spadRead (c : Core) (w : Strm) (a n : Nat) : List Byte :=
  let wh := (streamOf c w).withheld
  (List.range n).map fun i => (wh.get (a + i) none).getD (c.spad.get (a + i) 0)

/-- The withholding buffer after a write (R84). -/
def withhold (wh : SMap (Option Byte)) (a : Nat) : List Byte → SMap (Option Byte)
  | [] => wh
  | b :: t => withhold (wh.set a (some b) none) (a + 1) t

/-- SpadWrite by a slot or an M, P or X engine of a stream: withheld until the next commit (R82, R84). -/
def streamWrite (st : Stream) (a : Nat) (bs : List Byte) : Stream :=
  { st with withheld := withhold st.withheld a bs }

/-- SpadWrite of the issuing stream. -/
def State.spadWrite (s : State) (a : Nat) (bs : List Byte) : State :=
  s.updStream s.cur fun st => streamWrite st a bs

/-- Write to the committed scratchpad (R166, R175). -/
def coreSpadWrite (c : Core) (a : Nat) (bs : List Byte) : Core := { c with spad := writeBytes c.spad a bs }

/-- How many 64-byte lines a withholding buffer holds; its keys rise (R82). -/
def lineCount : SMap (Option Byte) → Nat
  | [] => 0
  | [_] => 1
  | (a, _) :: (b, y) :: t => (if a / 64 = b / 64 then 0 else 1) + lineCount ((b, y) :: t)

/-- Old bytes of the 64-byte lines that `n` bytes at `a` touch, for those that the scratchpad log lacks for a context (R299). -/
def logLines (ctx : Nat) (undo : List (Nat × Nat × List Byte)) (spad : SMap Byte) (a n : Nat) : List (Nat × Nat × List Byte) :=
  (List.range ((a + n - 1) / 64 + 1 - a / 64)).foldl
    (fun u i =>
      let l := a / 64 + i
      if u.any fun p => p.1 == ctx && p.2.1 == l then u else (ctx, l, readBytes spad (64 * l) 64) :: u) undo

/-- The log of a core before a write on behalf of a context; `prot` says that the context's writes are logged (R299). -/
def logSpad (prot : Bool) (ctx : Nat) (c : Core) (a n : Nat) : Core :=
  if prot && n != 0 then { c with undo := logLines ctx c.undo c.spad a n } else c

/-! ### Tokens -/

/-- The generation that a token field names now (R163, R164); t0 names generation 0. -/
def Regs.gen (r : Regs) (t : BitVec 6) : Nat := if t = 0 then 0 else r.t.get t.toNat 0

/-- The state of a generation. -/
def Stream.gen (st : Stream) (id : Nat) : Gen := st.gens.get id {}

/-- Start a new generation of token `t` (R164); t0 starts none. -/
def newGen (st : Stream) (t : BitVec 6) : Nat × Stream :=
  if t = 0 then (0, st)
  else
    let id := st.nextGen
    (id, { st with
      nextGen := id + 1
      gens := st.gens.set id { set := false } {}
      regs := { st.regs with t := st.regs.t.set t.toNat id 0 } })

/-- TokenSet of R320: the generation becomes set. -/
def setGen (st : Stream) (id status : Nat) (bind : BitVec 2) : Stream :=
  if id = 0 then st else { st with gens := st.gens.set id ⟨true, bind, status⟩ {} }

/-- Whether a generation belongs to a held D operation, directly or through TOKJ (R85, R382). -/
def heldGen (st : Stream) : Nat → Nat → Bool
  | 0, _ => false
  | fuel + 1, id =>
    id != 0 && ((st.dheld.any fun o => o.out == id) ||
      st.dq.any fun o => o.out == id && o.body == .tokj && o.ins.any (heldGen st fuel))

/-! ### Loops and addresses -/

/-- The part of NextPC for a bundle that is not taken, ending at `after` (R77). -/
def nextPC (after : W48) : List LoopEntry → W48 × List LoopEntry
  | [] => (after, [])
  | top :: t =>
    if after = top.exit then
      if top.count - 1 = 0 then nextPC after t
      else (top.start, { top with count := top.count - 1 } :: t)
    else (after, top :: t)

/-- The part of NextPC for a taken branch: every loop that excludes the target is popped (R77). -/
def popFor (target : W48) : List LoopEntry → List LoopEntry
  | [] => []
  | top :: t => if target < top.start ∨ top.exit ≤ target then popFor target t else top :: t

/-! ### Engine queues -/

/-- Every operation of the stream's M, P and X queues. -/
def Stream.mpx (st : Stream) : List Op := st.mq ++ st.pq ++ st.xq

/-- Whether every M, P and X operation issued before `n` has retired (R81 step 1). -/
def mpxDone (st : Stream) (n : Nat) : Bool := st.mpx.all fun o => decide (n ≤ o.id)

/-! ### Commit and rollback -/

/-- One lane of a held scratchpad atomic acts on the committed scratchpad (R173, R174). -/
def atomLane (h : HeldAtomic) (m : SMap Byte) (p : Nat × W64) : SMap Byte :=
  match h.addf with
  | none => writeBytes m p.1 (leBytes h.w (readLE m p.1 h.w + p.2.toNat))
  | some t =>
    let f : Fmt := if t = 0 then .fp32 else if t = 1 then .bf16 else .fp16
    let x := Num.decode f (p.2.toNat % 2 ^ f.width)
    writeBytes m p.1 ((Fxc.ofBytes (readBytes m p.1 32)).add x).bytes

/-- A held scratchpad atomic acts: its lanes in ascending order. -/
def applyAtomic (m : SMap Byte) (h : HeldAtomic) : SMap Byte := h.lanes.foldl (atomLane h) m

/-- Write the withholding buffer to the scratchpad (R81 step 3). -/
def flush (m : SMap Byte) (wh : SMap (Option Byte)) : SMap Byte :=
  wh.foldl (fun m p => match p.2 with | some b => m.set p.1 b 0 | none => m) m

/-- What a D operation does at dispatch beyond joining the queue: NOTIFY reads its record (R361). -/
def dispatchOp (spad : SMap Byte) (o : Op) : Op :=
  match o.body with
  | .notify d => { o with data := readBytes spad (fld d 0 25).toNat 32 }
  | _ => o

/-- The scratchpad ranges that a commit writes. -/
def commitRanges (st : Stream) : List (Nat × Nat) :=
  st.withheld.map (fun p => (p.1, 1)) ++ (st.atoms.map fun h => h.lanes.map fun p => (p.1, h.w)).flatten

/-- Steps 3 to 6 of a commit (R81): the withholding buffer and the held atomics reach the scratchpad, the images
are emptied, the duplicate is copied, the held D operations are dispatched in issue order. -/
def commitCore (prot : Bool) (c : Core) (w : Strm) : Core :=
  let st := streamOf c w
  let c := (commitRanges st).foldl (fun c p => logSpad prot st.owner c p.1 p.2) c
  let spad := st.atoms.foldl applyAtomic (flush c.spad st.withheld)
  let st := { st with
    withheld := [], atoms := [], beforeV := [], beforeQ := [], tileImgs := [], statImgs := []
    dup := st.regs, dupId := st.nextId, dupR := st.groupR, dupW := st.groupW
    dq := st.dq ++ st.dheld.map (dispatchOp spad), dheld := [] }
  { putStream c w st with spad := spad }

/-- The tile image, taken at the first modification of a tile after a checkpoint (R83). -/
def saveTile (st : Stream) (z : Nat) (t : Tile) : Stream :=
  if st.tileImgs.any fun p => p.1 == z then st else { st with tileImgs := (z, t) :: st.tileImgs }

/-- Write a tile of a core on behalf of a stream. -/
def coreWriteTile (c : Core) (w : Strm) (z : Nat) (t : Tile) : Core :=
  let c := putStream c w (saveTile (streamOf c w) z (c.tiles.get z {}))
  { c with tiles := c.tiles.set z t {} }

/-- TSTAT of a tile, before its first drain after a checkpoint, unless the tile's image has it (R82). -/
def saveStat (st : Stream) (z : Nat) (t : Tile) : Stream :=
  if (st.tileImgs.any fun p => p.1 == z) || st.statImgs.any fun p => p.1 == z then st
  else { st with statImgs := (z, t.tstat, t.late) :: st.statImgs }

/-- Change the TSTAT of a tile of a core on behalf of a stream. -/
def coreWriteStat (c : Core) (w : Strm) (z : Nat) (t : Tile) : Core :=
  let c := putStream c w (saveStat (streamOf c w) z (c.tiles.get z {}))
  { c with tiles := c.tiles.set z t {} }

/-- Give a tile its TSTAT back. -/
def restoreStat (m : SMap Tile) (p : Nat × W64 × List (Nat × W64)) : SMap Tile :=
  m.set p.1 { m.get p.1 {} with tstat := p.2.1, late := p.2.2 } {}

/-- The rollback of R86: registers from the duplicate, v and q registers from before-images, tiles from their
images; the open group is that of the checkpoint (log 48); the withholding buffer, the held atomics, the held D operations, and what the stream gave its D engine
without a commit since the checkpoint (TOKJ, R382; stream copies, R227) are discarded. -/
def rollbackCore (c : Core) (w : Strm) : Core :=
  let st := streamOf c w
  let v := st.beforeV.foldl (fun m p => m.set p.1 p.2 0) c.v
  let tiles := st.statImgs.foldl restoreStat (st.tileImgs.foldl (fun m p => m.set p.1 p.2 {}) c.tiles)
  let st := { st with
    regs := st.dup
    q := st.beforeQ.foldl (fun m p => m.set p.1 p.2 0) st.q
    withheld := [], atoms := [], beforeV := [], beforeQ := [], tileImgs := [], statImgs := []
    dheld := [], dq := st.dq.filter fun o => decide (o.id < st.dupId)
    ckpt := none, ckptAt := none, phaseWait := none, groupR := st.dupR, groupW := st.dupW, shroud := [] }
  { putStream c w st with v := v, tiles := tiles }

/-! ### Gangs -/

/-- Every stream that runs a launch. -/
def State.streams (s : State) : List (SRef × Stream) :=
  (s.cores.flatMap fun p => [(⟨p.1, .main⟩, p.2.main), (⟨p.1, .miz⟩, p.2.miz)]).filter fun p => p.2.launch.isSome

/-- The streams of the gang that stream `r` runs in, lead first; `r` alone without a launch (R194). -/
def State.gang (s : State) (r : SRef) : List SRef :=
  match (s.stream r).launch with
  | none => [r]
  | some l => (List.range l.gsize).map fun p => ⟨l.lead + p, r.strm⟩

/-! ### Events -/

/-- The ordering key of an event (R276). -/
def okey (cls ident : Nat) : W32 := BitVec.ofNat 32 (cls * 2 ^ 28 + ident % 2 ^ 28)

/-- Queue an event record, or hold it at its source while the queue is full; a notify record that already has one
waiting is merged when the queue is full (R278). -/
def Mast.post (m : Mast) (e : EventRec) : Mast :=
  if m.events.length < 8192 then { m with events := m.events ++ [e] }
  else if e.type = 1 && m.events.any (fun x => x.type == 1 && x.okey == e.okey) then m
  else { m with deferred := m.deferred ++ [e] }

/-- Post an event with the time at which it is queued (R276, R277). -/
def State.post (s : State) (type : Nat) (key : W32) (a0 a1 : W64) : State :=
  { s with mast := s.mast.post ⟨type, key, a0, a1, s.time⟩ }

/-! ### Traps -/

/-- The registry entry of a context (R296). -/
def State.ctx (s : State) (n : Nat) : CtxEntry := s.mast.registry.get n {}

/-- A context is being terminated: what its dispatched D operations leave is waited for (R297). -/
def State.isEnding (s : State) (ctx : Nat) : Bool := (s.mast.ending.get ctx none).isSome

/-- ROLLBACK: the writes of a context are logged and its recovery points are taken, also while its protection is lost (R295, R299). -/
def State.logged (s : State) (n : Nat) : Bool := flag (s.ctx n).contain 1

/-- Whether a context holds rollback protection (R215, R295). -/
def State.protected (s : State) (n : Nat) : Bool := s.logged n && !flag (s.ctx n).contain 2

/-- Whether DET is on (R179). -/
def Stream.det (st : Stream) : Bool := (st.launch.map (·.det)).getD false

/-- The highest level that a cause's Routes column allows (R286). -/
def maxRoute (cause : Nat) : Nat :=
  if cause = 10 ∨ cause = 13 ∨ cause = 14 then 0 else if cause = 12 then 1 else 2

/-- The route of a cause (R288): 0 to Nymen, 1 to the partition agent, 2 to the user handler. -/
def route (e : CtxEntry) (inHandler : Bool) (cause : Nat) : Nat :=
  let v := (e.tdeleg.toNat / 4 ^ cause) % 4
  let v := if v = 3 then 0 else v
  let v := if inHandler then 1 else v
  let v := if v = 2 ∧ e.uhentry = BitVec.allOnes 64 then 1 else v
  min v (maxRoute cause)

/-- TCAUSE (R285). -/
def tcauseWord (t : TrapCause) (level : Nat) : W64 :=
  BitVec.ofNat 64 (t.gpos.toNat * 2 ^ 61 + t.detail.toNat * 2 ^ 32 + level * 2 ^ 8 + t.cause % 2 ^ 8)

/-- ARG0 of event 5 (R277): `r` is the member that raised the trap. -/
def trapArg0 (ctx : Nat) (r : SRef) (gpos : Nat) : W64 :=
  BitVec.ofNat 64 (ctx % 2 ^ 16 * 2 ^ 48 + r.core % 2 ^ 8 * 2 ^ 40 +
    (if r.strm = .miz then 2 ^ 39 else 0) + gpos % 8 * 2 ^ 36)

/-- The member of `r`'s gang at a position (R194). -/
def State.gangMember (s : State) (r : SRef) (gpos : Nat) : SRef :=
  match (s.stream r).launch with
  | none => r
  | some l => ⟨l.lead + gpos, r.strm⟩

/-- The order in which R287 picks: causes 14 and 13 first, then the earliest bundle, then the lowest code. -/
def TrapCause.before (a b : TrapCause) : Bool :=
  let cls (t : TrapCause) : Nat := if t.cause = 14 then 0 else if t.cause = 13 then 1 else 2
  if cls a ≠ cls b then decide (cls a < cls b)
  else if a.bundle ≠ b.bundle then decide (a.bundle < b.bundle)
  else decide (a.cause ≤ b.cause)

/-- The cause that is reported (R287). -/
def pickTrap : List TrapCause → Option TrapCause
  | [] => none
  | t :: rest => match pickTrap rest with
    | none => some t
    | some u => if t.before u then some t else some u

/-- Enter the user handler (R290): the frame receives PC, loop stack and holds; the stream issues from UHENTRY
in a group of its own (log 48). -/
def enterHandler (e : CtxEntry) (st : Stream) : Stream :=
  { st with
    regs := { st.regs with
      handler := some ⟨st.regs.pc, st.regs.loops, st.regs.holds⟩, pc := fld e.uhentry 0 48, loops := [], holds := {} }
    groupR := [], groupW := [] }

/-- Leave the user handler (R290). -/
def leaveHandler (st : Stream) : Stream :=
  match st.regs.handler with
  | none => st
  | some f =>
    { st with
      regs := { st.regs with handler := none, pc := f.pc, loops := f.loops, holds := f.holds }
      groupR := [], groupW := [] }

/-- Change every stream of `r`'s gang. -/
def State.updGang (s : State) (r : SRef) (f : Stream → Stream) : State :=
  (s.gang r).foldl (fun s m => s.updStream m f) s

/-- The gang of a stream has issued a bundle with an ASWAP or ACAS, and the checkpoint behind it is still to be committed (R175). -/
def State.swapOpen (s : State) (r : SRef) : Bool := (s.gang r).any fun m => (s.stream m).ckpt.any CkptReq.swap

/-- Whether no M, P or X operation of `r`'s gang is in flight (R86). -/
def State.gangQuiet (s : State) (r : SRef) : Bool := (s.gang r).all fun m => (s.stream m).mpx.isEmpty

/-- Steps of Nymen and of the agents need the Mast's cores to run them: Nymen has been started (R274; boot stage 3, or 5 once an agent image
has been rejected), and no crash has halted the cores (R298). -/
def State.nymenUp (s : State) : Bool := (s.boot.stage == 3 || s.boot.stage == 5) && s.crash.since.isNone

/-- The partition of a stream is unlocked for the debugger, whose link is up (R23, R303). -/
def State.unlockedFor (s : State) (r : SRef) : Bool :=
  !s.links.pcieHeld && (s.mast.parts.get (s.ctx (s.stream r).owner).partition {}).unlocked

/-- The trap is delivered to its level (R285, R288, R290): the trap registers are written; the streams of the gang
stop together and event 5 is posted, or they enter the user handler. `inHandler` says that the cause was raised in the user handler. BRK
routed to 1 is presented to the debugger while its session lasts (R303). -/
def State.deliver (s : State) (r : SRef) (inHandler : Bool) (t : TrapCause) : State :=
  let st := s.stream r
  let e := s.ctx st.owner
  let lv := route e inHandler t.cause
  let s := s.updGang r fun st => { st with sys := { st.sys with
    tcause := tcauseWord t lv, faultpc := t.pc.setWidth 64, ckptpc := st.dup.pc.setWidth 64 } }
  if lv = 2 then s.updGang r (enterHandler e)
  else
    let s := if t.cause = 11 ∧ lv = 1 ∧ s.unlockedFor r then { s with debugBrk := s.debugBrk ++ [(r, tcauseWord t lv)] } else s
    (s.updGang r fun st => { st with run := .stopped }).post 5 (okey 1 st.owner) (trapArg0 st.owner (s.gangMember r t.gpos.toNat) t.gpos.toNat)
      (tcauseWord t lv)

/-- Every member of a gang that stands at one checkpoint numbers its bundles alike, so that R287 can compare them. -/
def State.alignNos (s : State) (r : SRef) : State :=
  let n := ((s.gang r).map fun m => (s.stream m).bundleNo).foldl max 0
  s.updGang r fun st => { st with bundleNo := n }

/-- A trap of `r`'s gang is taken (R86, R196, R285 to R288): every member returns to its last checkpoint, then the
trap is delivered. Causes 13 and 14 are not rolled back here (R88, R301). -/
def State.takeTrap (s : State) (r : SRef) (t : TrapCause) : State :=
  let inHandler := (s.stream r).regs.handler.isSome
  let s := if t.cause = 13 ∨ t.cause = 14 then s
    else ((s.gang r).foldl (fun s m => s.updCore m.core fun c => rollbackCore c m.strm) s).alignNos r
  (s.updGang r fun st => { st with traps := [], shroud := [], ckpt := none }).deliver r inHandler t

/-- A trap cause that a slot raises at issue (R286): the bundle takes no effect. It waits for the in-flight M, P and X
operations to retire (R86, R287), and is taken at once when there is none. -/
def State.raise (s : State) (r : SRef) (cause : Nat) (detail : BitVec 29) (pc : W48) : State :=
  let st := s.stream r
  let gp := BitVec.ofNat 3 ((st.launch.map (·.gpos)).getD 0)
  let t : TrapCause := ⟨cause, detail, pc, st.bundleNo + 1, gp⟩
  if s.gangQuiet r && (s.gang r).all fun m => (s.stream m).traps.isEmpty && (s.stream m).shroud.isEmpty then s.takeTrap r t
  else s.updStream r fun st => { st with traps := st.traps ++ [t] }

/-- A handler continues a stopped gang (R288): it resumes at CKPTPC, and before its first bundle issues it commits
an implicit checkpoint of its state, once the M, P and X operations of an SVC's bundle have retired (R81). -/
def State.resume (s : State) (r : SRef) : State :=
  s.updGang r fun st => { st with run := .running, ckpt := some { before := st.nextId } }

end Sys2Proof.Machine
end

