-- ==== Sys2Proof/Machine/Operands.lean ====
section
/-! DEFINITION. Operand forms: addresses of the A and L slots (R347, R376, R390, R392, R324), records (R248), the
literal (R73), the captured operands of engine operations (R166), descriptor advance (R74, R139, R148, R222). -/
namespace Sys2Proof.Machine

/-- The literal or the immediate of a form with an LT bit, sign-extended to `w` bits (R73, R105). -/
def immOrLit {n : Nat} (s : State) (lt : Bool) (imm : BitVec n) (w : Nat) : BitVec w :=
  if lt then (s.frame.lit.getD 0).signExtend w else imm.signExtend w

/-- The value of a KV form: the immediate, or all 64 bits of the register (R100). -/
def kVal (s : State) : KVal → W64
  | .imm v => v.setWidth 64
  | .reg r => s.rd .k r

/-- The trip count of LOOP (R76, R350). -/
def tripCount (s : State) : LCount → W32
  | .imm n => n.setWidth 32
  | .reg r => (s.rd .k r).setWidth 32

/-- The address of LD (R347), exact. -/
def ldAddr (s : State) (sb : Src) (off : BitVec 18) : Int := (s.rd .a sb).toNat + off.toInt

/-- The address of ST (R376), exact. -/
def stAddr (s : State) (sb : Src) (off : W16) : Int := (s.rd .a sb).toNat + off.toInt

/-- The address of VLD, VLDE and VST (R390), exact. -/
def vAddr (s : State) (base : BitVec 8) (off : BitVec 11) : Int := (s.rdBase base).toNat + 64 * off.toInt

/-- The address of one lane of an indexed form; the index 0x8000_0000 skips the lane (R173, R324, R392). -/
def laneAddr (b : W64) (x : W32) : Option Int := if x = 0x80000000 then none else some (b.toNat + x.toInt)

/-- The lane addresses of an indexed form over `n` lanes. -/
def laneAddrs (s : State) (base : BitVec 8) (vi : BitVec 10) (n : Nat) : List (Option Int) :=
  let v := s.rdV vi.toNat
  (List.range n).map fun i => laneAddr (s.rdBase base) (elem v i 32)

/-- Lanes and width in bytes of AADD, ASWAP and ACAS by their T code (R173). -/
def atomicShape (t : BitVec 2) : Nat × Nat := if t = 0 then (256, 4) else (128, 8)

/-- An access passes when it lies in the scratchpad and is aligned (R320). -/
def accessOk (a : Int) (n align : Nat) : Bool := inSpad a n && decide (a % align = 0)

/-- The length word of a record (R248): OVR, ESZ, NNZ. -/
structure RecordLen where
  ovr : Bool
  esz : Nat
  nnz : Nat
  deriving DecidableEq, Repr, Inhabited

/-- Reads a length word. -/
def RecordLen.ofWord (w : W32) : RecordLen := ⟨flag w 31, (fld w 29 2).toNat, (fld w 0 16).toNat⟩

/-- The size of a record (R248). -/
def RecordLen.size (r : RecordLen) : Nat := 4 + 128 / 2 ^ r.esz + r.nnz * 2 ^ r.esz

/-- The number of 1 bits below bit `n`. -/
def popcount : Nat → Nat → Nat
  | 0, _ => 0
  | n + 1, x => x % 2 + popcount n (x / 2)

/-- A malformed record (R391): OVR, ESZ = 3, or a mask that does not count NNZ bits. `bytes` starts at the record. -/
def recordBad (bytes : List Byte) : Bool :=
  let r := RecordLen.ofWord (BitVec.ofNat 32 (leNat (bytes.take 4)))
  r.ovr || r.esz == 3 || popcount 1024 (leNat ((bytes.drop 4).take (128 / 2 ^ r.esz))) != r.nnz

/-- Expand the elements of a record: the values taken in order under the mask bits, the other elements zero
(R390). -/
def expandFrom (e : Nat) : Nat → Nat → List Byte → List Byte
  | 0, _, _ => []
  | n + 1, mask, vals =>
    if mask % 2 = 1 then vals.take e ++ expandFrom e n (mask / 2) (vals.drop e)
    else List.replicate e 0 ++ expandFrom e n (mask / 2) vals

/-- The 1 KiB vector that a record stands for (R390). -/
def expandRecord (bytes : List Byte) : List Byte :=
  let r := RecordLen.ofWord (BitVec.ofNat 32 (leNat (bytes.take 4)))
  let e := 2 ^ r.esz
  let mask := leNat ((bytes.drop 4).take (128 / e))
  expandFrom e (1024 / e) mask (bytes.drop (4 + 128 / e))

/-- The failing address of an L or A slot access, that of the lowest failing lane (R324, R347, R376, R390 to
R392); none when the access passes. -/
def spadFail (s : State) : Instr → Option Int
  | .ld _ _ sb sz _ off =>
    let a := ldAddr s sb off
    if accessOk a (2 ^ sz.toNat) (2 ^ sz.toNat) then none else some a
  | .st _ _ sb sz off =>
    let a := stAddr s sb off
    if accessOk a (2 ^ sz.toNat) (2 ^ sz.toNat) then none else some a
  | .vld _ _ b _ off | .vst _ _ b _ _ off =>
    let a := vAddr s b off
    if accessOk a 1024 64 then none else some a
  | .vlde _ _ b _ off =>
    let a := vAddr s b off
    if !accessOk a 4 64 then some a
    else
      let r := RecordLen.ofWord (BitVec.ofNat 32 (leNat (spadRead s.view s.cur.strm a.toNat 4)))
      if r.esz = 3 || !inSpad a r.size then some a
      else if recordBad (spadRead s.view s.cur.strm a.toNat r.size) then some a else none
  | .vldx _ _ b _ vi _ | .vstx _ _ b _ vi _ _ =>
    (laneAddrs s b vi 256).findSome? fun x => x.bind fun a => if accessOk a 4 4 then none else some a
  | .aadd _ _ b _ vi t | .acas _ _ b _ vi t | .aswap _ _ b _ vi t =>
    let (n, w) := atomicShape t
    (laneAddrs s b vi n).findSome? fun x => x.bind fun a => if accessOk a w w then none else some a
  | .aaddf _ _ b _ vi _ =>
    (laneAddrs s b vi 256).findSome? fun x => x.bind fun a => if accessOk a 32 32 then none else some a
  | _ => none

/-- The scratchpad ranges that an A or L slot accesses at issue: first byte, length, whether it writes. The held
atomics AADD and AADDF access nothing at issue (R174). -/
def slotAccesses (s : State) : Instr → List (Nat × Nat × Bool)
  | .ld _ _ sb sz _ off => [((ldAddr s sb off).toNat, 2 ^ sz.toNat, false)]
  | .st _ _ sb sz off => [((stAddr s sb off).toNat, 2 ^ sz.toNat, true)]
  | .vld _ _ b _ off => [((vAddr s b off).toNat, 1024, false)]
  | .vst _ _ b _ _ off => [((vAddr s b off).toNat, 1024, true)]
  | .vlde _ _ b _ off =>
    let a := (vAddr s b off).toNat
    [(a, (RecordLen.ofWord (BitVec.ofNat 32 (leNat (spadRead s.view s.cur.strm a 4)))).size, false)]
  | .vldx _ _ b _ vi _ => ((laneAddrs s b vi 256).filterMap id).map fun a => (a.toNat, 4, false)
  | .vstx _ _ b _ vi _ _ => ((laneAddrs s b vi 256).filterMap id).map fun a => (a.toNat, 4, true)
  | .acas _ _ b _ vi t | .aswap _ _ b _ vi t =>
    let (n, w) := atomicShape t
    ((laneAddrs s b vi n).filterMap id).map fun a => (a.toNat, w, true)
  | _ => []

/-- The scratchpad ranges of a slot that R178 checks: those that it accesses, and the targets of the atomics that it holds. -/
def setAccesses (s : State) (i : Instr) : List (Nat × Nat × Bool) :=
  match i with
  | .aadd _ _ b _ vi t =>
    let (n, w) := atomicShape t
    ((laneAddrs s b vi n).filterMap id).map fun a => (a.toNat, w, true)
  | .aaddf _ _ b _ vi _ => ((laneAddrs s b vi 256).filterMap id).map fun a => (a.toNat, 32, true)
  | _ => slotAccesses s i

/-- Two ranges share a byte. -/
def overlaps (a n b m : Nat) : Bool := decide (a < b + m) && decide (b < a + n)

/-- Whether a range holds a byte that a held atomic targets (R174). -/
def atomHit (l : List HeldAtomic) (a n : Nat) : Bool := l.any fun h => h.lanes.any fun p => overlaps p.1 h.w a n

/-- Whether an A or L slot reads or writes a byte that a held atomic targets (R174): the commit comes before the slot's own checks of the bytes
that it reads, those of a VLDE record (R391), so a record counts by its length word, and whole once that names bytes of the scratchpad. -/
def commitsFirst (s : State) (i : Instr) : Bool :=
  match i with
  | .vlde _ _ b _ off =>
    let a := vAddr s b off
    let r := RecordLen.ofWord (BitVec.ofNat 32 (leNat (spadRead s.view s.cur.strm a.toNat 4)))
    accessOk a 4 64 && atomHit s.me.atoms a.toNat (if r.esz = 3 || !inSpad a r.size then 4 else r.size)
  | _ => (spadFail s i).isNone && (slotAccesses s i).any fun r => atomHit s.me.atoms r.1 r.2.1

/-- One access against the set entries of a phase (R178): every byte lies in an entry of the engine, in a write set
for a write. -/
def inSets (sets : List SetEntry) (eng : Nat) (a n : Nat) (write : Bool) : Bool :=
  (List.range n).all fun i => sets.any fun e =>
    e.eng == eng && (e.write || !write) && decide (e.start ≤ a + i) && decide (a + i < e.start + e.len)

/-! ### Captured operands -/

/-- The first physical tile of a stream's allotment (R130). -/
def tileBase (w : Strm) (zt : Nat) : Nat := match w with | .main => 0 | .miz => 4 - zt

/-- The tiles allotted to the issuing stream (R130, R257). -/
def Stream.zt (st : Stream) : Nat := (st.launch.map (·.zt)).getD 0

/-- The clusters allotted to a stream (R65, R257). -/
def Stream.vcl (st : Stream) : BitVec 10 := (st.launch.map (·.vcl)).getD 0

/-- What an engine slot does, with the registers and formats it reads at issue (R66, R131, R166). -/
def bodyOf (s : State) (lit : Option W32) (i : Instr) : OpBody :=
  let r := s.src.regs
  let z (n : BitVec 2) : Nat := tileBase s.cur.strm s.src.zt + n.toNat
  let m (n : Nat) : W64 := r.get .m n
  let p (n : BitVec 4) : W64 := r.get .p n.toNat
  let d (n : Nat) : W64 := r.get .d n
  let px : BitVec 4 := fld r.fmtr 12 4
  match i with
  | .mma _ t a b => .mma (z t) (m a.toNat) (m b.toNat) none none (fld r.fmtr 0 4) (fld r.fmtr 4 4)
  | .mmas _ t a b sc =>
    .mma (z t) (m (2 * a.toNat)) (m (2 * b.toNat))
      (if flag sc 0 then some (m (2 * a.toNat + 1)) else none)
      (if flag sc 1 then some (m (2 * b.toNat + 1)) else none) (fld r.fmtr 0 4) (fld r.fmtr 4 4)
  | .manch _ t n => .manch (z t) (m n.toNat)
  | .mzero _ t n => .mzero (z t) (m n.toNat)
  | .mdrain _ t n => .mdrain (z t) (m n.toNat) (fld r.fmtr 8 4)
  | .pcheck _ n => .pcheck (p n) px
  | .pscore _ n => .pscore (p n) px
  | .pgrp _ n => .pgrp (p n)
  | .pscan _ q n => .pscan q.toNat (p n) px
  | .pdot _ t q n => .pdot (z t) q.toNat (p n)
  | .xget _ sp x => .xget sp x
  | .xmv _ dp (.reg x) => .xmove dp (r.get .x x.toNat)
  | .xmv _ dp (.port q) => .xresult dp q
  | .xmvi _ dp lt imm => .xmove dp (if lt then (lit.getD 0).signExtend 64 else imm.signExtend 64)
  | .atomm _ n op => .atom false (d n.toNat) (d (n.toNat + 1)) op
  | .atomr _ n op => .atom true (d n.toNat) (d (n.toNat + 1)) op
  | .cbar _ => .cbar (fld r.dom 0 3).toNat
  | .cpy _ n ac o => .cpy .cpy (d n.toNat) (d (n.toNat + 1)) ac o
  | .cpyg _ n ac o => .cpy .cpyg (d n.toNat) (d (n.toNat + 1)) ac o
  | .cpys _ n ac o => .cpy .cpys (d n.toNat) (d (n.toNat + 1)) ac o
  | .cpyx _ n ac o => .cpy .cpyx (d n.toNat) (d (n.toNat + 1)) ac o
  | .cred _ n op => .cred (d n.toNat) (d (n.toNat + 1)) (op == 1)
  | .fence _ sc x => .fence sc x
  | .gdone _ n => .gdone (d n.toNat)
  | .gtrig _ n => .gtrig (d n.toNat)
  | .notify _ n => .notify (d n.toNat)
  | _ => .tokj

/-- The opcode of an engine slot (R109), as the binding log reports it (R128). -/
def engOpc : Instr → BitVec 7
  | .manch .. => 1 | .mdrain .. => 2 | .mma .. => 3 | .mmas .. => 4 | .mzero .. => 5
  | .pcheck .. => 1 | .pdot .. => 2 | .pgrp .. => 3 | .pscan .. => 4 | .pscore .. => 5
  | .xget .. => 1 | .xmv .. => 2 | .xmvi .. => 3
  | .atomm .. => 1 | .atomr .. => 2 | .cbar .. => 3 | .cpy .. => 4 | .cpyg .. => 5 | .cpys .. => 6
  | .cpyx .. => 7 | .cred .. => 8 | .fence .. => 9 | .gdone .. => 0xA | .gtrig .. => 0xB | .notify .. => 0xC
  | .tokj .. => 0xD
  | _ => 0

/-! ### Descriptor advance of held repetitions -/

/-- Add to the field of `len` bits at `lo`, modulo its width. -/
def addField (w : W64) (lo len : Nat) (x : Int) : W64 :=
  let f : Nat := ((((fld w lo len).toNat : Int) + x) % 2 ^ len).toNat
  (w &&& ~~~BitVec.ofNat 64 ((2 ^ len - 1) * 2 ^ lo)) ||| BitVec.ofNat 64 (f * 2 ^ lo)

/-- INC of a descriptor: bits [63:56], signed (R133, R135, R139, R148). -/
def incOf (w : W64) : Int := (fld w 56 8).toInt

/-- The registers that a repetition advances, each once, with its new value (R74, R139, R148, R222). -/
def advances (r : Regs) (i : Instr) : List (RegId × W64) :=
  let m (n : Nat) : RegId := ⟨.m, n, none⟩
  let opnd (n : Nat) : RegId × W64 := (m n, addField (r.get .m n) 0 19 (incOf (r.get .m n)))
  let scale (n : Nat) : RegId × W64 := (m n, addField (r.get .m n) 0 25 (3 * incOf (r.get .m n)))
  let pdesc (n : BitVec 4) : List (RegId × W64) :=
    [(⟨.p, n.toNat, none⟩, addField (r.get .p n.toNat) 0 25 (32 * incOf (r.get .p n.toNat)))]
  let d0 (n : BitVec 5) : W64 := r.get .d n.toNat
  let d1 (n : BitVec 5) : W64 := r.get .d (n.toNat + 1)
  let gs (n : BitVec 5) : List (RegId × W64) :=
    let c := d1 n
    let k : Int := (fld c 48 12).toNat + 1
    [(⟨.d, n.toNat + 1, none⟩, addField (addField c 25 23 k) 0 25 (k * 2 ^ (fld c 60 4).toNat))]
  match i with
  | .mma _ _ a b => if a = b then [opnd a.toNat] else [opnd a.toNat, opnd b.toNat]
  | .mmas _ _ a b sc =>
    (if a = b then [opnd (2 * a.toNat)] else [opnd (2 * a.toNat), opnd (2 * b.toNat)]) ++
    (if flag sc 0 then [scale (2 * a.toNat + 1)] else []) ++
    (if flag sc 1 ∧ ¬(flag sc 0 ∧ a = b) then [scale (2 * b.toNat + 1)] else [])
  | .mdrain _ _ n => [(m n.toNat, addField (r.get .m n.toNat) 0 25 (64 * incOf (r.get .m n.toNat)))]
  | .pcheck _ n | .pgrp _ n | .pscore _ n => pdesc n
  | .pdot _ _ _ n => pdesc n
  | .pscan _ _ n => pdesc n
  | .cpy _ n _ _ =>
    let len : Int := (fld (d1 n) 32 25).toNat
    [(⟨.d, n.toNat, none⟩, wrap 64 ((d0 n).toNat + len)), (⟨.d, n.toNat + 1, none⟩, addField (d1 n) 0 25 len)]
  | .cpyg _ n _ _ | .cpys _ n _ _ => gs n
  | .cpyx _ n _ _ =>
    let k : Int := (fld (d1 n) 50 8).toNat + 1
    [(⟨.d, n.toNat, none⟩, wrap 64 ((d0 n).toNat + 64 * (fld (d1 n) 38 12).toNat * k)),
     (⟨.d, n.toNat + 1, none⟩, addField (d1 n) 0 25 (1024 * k))]
  | _ => []

/-- The advanced descriptors are written back (R74). -/
def advance (r : Regs) (i : Instr) : Regs := (advances r i).foldl (fun r p => r.put p.1.file p.1.ix p.2) r

end Sys2Proof.Machine
end

