-- ==== Sys2Proof/Machine/Crypto.lean ====
section
/-! DEFINITION. CRC-32C (R249), SHA-256 and HMAC-SHA-256 (R275, R279; FIPS 180-4 and RFC 2104, which the rules name). -/
namespace Sys2Proof.Machine

/-! ### CRC-32C -/

/-- `n` bit steps of the reflected polynomial 0x82F6_3B78. -/
def crcBits : Nat → W32 → W32
  | 0, c => c
  | n + 1, c => crcBits n (if flag c 0 then (c >>> 1) ^^^ 0x82F63B78 else c >>> 1)

/-- One byte enters the state. -/
def crcByte (c : W32) (b : Byte) : W32 := crcBits 8 (c ^^^ b.setWidth 32)

/-- SUM of R249: the CRC of bytes in ascending address order, continued from `seed`. -/
def crc32c (seed : W32) (bs : List Byte) : W32 := ~~~(bs.foldl crcByte (~~~seed))

/-! ### SHA-256 -/

/-- The round constants. -/
def shaK : List W32 :=
  [0x428a2f98, 0x71374491, 0xb5c0fbcf, 0xe9b5dba5, 0x3956c25b, 0x59f111f1, 0x923f82a4, 0xab1c5ed5] ++
  [0xd807aa98, 0x12835b01, 0x243185be, 0x550c7dc3, 0x72be5d74, 0x80deb1fe, 0x9bdc06a7, 0xc19bf174] ++
  [0xe49b69c1, 0xefbe4786, 0x0fc19dc6, 0x240ca1cc, 0x2de92c6f, 0x4a7484aa, 0x5cb0a9dc, 0x76f988da] ++
  [0x983e5152, 0xa831c66d, 0xb00327c8, 0xbf597fc7, 0xc6e00bf3, 0xd5a79147, 0x06ca6351, 0x14292967] ++
  [0x27b70a85, 0x2e1b2138, 0x4d2c6dfc, 0x53380d13, 0x650a7354, 0x766a0abb, 0x81c2c92e, 0x92722c85] ++
  [0xa2bfe8a1, 0xa81a664b, 0xc24b8b70, 0xc76c51a3, 0xd192e819, 0xd6990624, 0xf40e3585, 0x106aa070] ++
  [0x19a4c116, 0x1e376c08, 0x2748774c, 0x34b0bcb5, 0x391c0cb3, 0x4ed8aa4a, 0x5b9cca4f, 0x682e6ff3] ++
  [0x748f82ee, 0x78a5636f, 0x84c87814, 0x8cc70208, 0x90befffa, 0xa4506ceb, 0xbef9a3f7, 0xc67178f2]

/-- The initial hash value. -/
def shaH : List W32 :=
  [0x6a09e667, 0xbb67ae85, 0x3c6ef372, 0xa54ff53a, 0x510e527f, 0x9b05688c, 0x1f83d9ab, 0x5be0cd19]

/-- Rotate right. -/
def rotr (x : W32) (n : Nat) : W32 := x.rotateRight n

/-- The message schedule: the last 16 words, newest first, extended by `n` words. -/
def shaSched : Nat → List W32 → List W32
  | 0, l => l
  | n + 1, l =>
    let w (k : Nat) : W32 := l.getD (k - 1) 0
    let s0 := rotr (w 15) 7 ^^^ rotr (w 15) 18 ^^^ (w 15 >>> 3)
    let s1 := rotr (w 2) 17 ^^^ rotr (w 2) 19 ^^^ (w 2 >>> 10)
    shaSched n ((w 16 + s0 + w 7 + s1) :: l)

/-- The working variables a to h. -/
structure Sha where
  a : W32
  b : W32
  c : W32
  d : W32
  e : W32
  f : W32
  g : W32
  h : W32
  deriving DecidableEq, Repr, Inhabited

/-- One round. -/
def shaRound (v : Sha) (k w : W32) : Sha :=
  let s1 := rotr v.e 6 ^^^ rotr v.e 11 ^^^ rotr v.e 25
  let ch := (v.e &&& v.f) ^^^ (~~~v.e &&& v.g)
  let t1 := v.h + s1 + ch + k + w
  let s0 := rotr v.a 2 ^^^ rotr v.a 13 ^^^ rotr v.a 22
  let mj := (v.a &&& v.b) ^^^ (v.a &&& v.c) ^^^ (v.b &&& v.c)
  ⟨t1 + (s0 + mj), v.a, v.b, v.c, v.d + t1, v.e, v.f, v.g⟩

/-- The rounds over constants and schedule words. -/
def shaRounds : List W32 → List W32 → Sha → Sha
  | k :: ks, w :: ws, v => shaRounds ks ws (shaRound v k w)
  | _, _, v => v

/-- A big-endian word of 4 bytes. -/
def beWord (l : List Byte) : W32 := BitVec.ofNat 32 (leNat (l.take 4).reverse)

/-- Cut into words, first word first. -/
def beWords : Nat → List Byte → List W32
  | 0, _ => []
  | n + 1, l => beWord l :: beWords n (l.drop 4)

/-- One block of 64 bytes. -/
def shaBlock (h : List W32) (blk : List Byte) : List W32 :=
  let ws := (shaSched 48 (beWords 16 blk).reverse).reverse
  let x (n : Nat) : W32 := h.getD n 0
  let v := shaRounds shaK ws ⟨x 0, x 1, x 2, x 3, x 4, x 5, x 6, x 7⟩
  [x 0 + v.a, x 1 + v.b, x 2 + v.c, x 3 + v.d, x 4 + v.e, x 5 + v.f, x 6 + v.g, x 7 + v.h]

/-- All blocks; `n` blocks remain. -/
def shaBlocks : Nat → List W32 → List Byte → List W32
  | 0, h, _ => h
  | n + 1, h, l => shaBlocks n (shaBlock h (l.take 64)) (l.drop 64)

/-- The padded message: a 1 bit, zeros, and the length in bits as 8 bytes big-endian. -/
def shaPad (m : List Byte) : List Byte :=
  let n := m.length
  m ++ [0x80] ++ List.replicate ((119 - n % 64) % 64) 0 ++ (leBytes 8 (8 * n)).reverse

/-- SHA-256: 32 bytes in digest order. -/
def sha256 (m : List Byte) : List Byte :=
  let p := shaPad m
  ((shaBlocks (p.length / 64) shaH p).map fun w => (leBytes 4 w.toNat).reverse).flatten

/-- HMAC-SHA-256. -/
def hmacSha256 (key m : List Byte) : List Byte :=
  let k := if key.length ≤ 64 then key else sha256 key
  let k := k ++ List.replicate (64 - k.length) 0
  sha256 (k.map (· ^^^ 0x5C) ++ sha256 (k.map (· ^^^ 0x36) ++ m))

end Sys2Proof.Machine
end

