-- ==== Sys2Proof/Machine/Registry.lean ====
section
/-! DEFINITION. Context-registry entries as bytes with their CRC, and their update (R295, R296, R298). -/
namespace Sys2Proof.Machine

/-- Bytes 0 to 247 of the entry of a context (R296). -/
def ctxBytes (ctx : Nat) (e : CtxEntry) : List Byte :=
  leBytes 2 ctx ++ leBytes 1 e.partition ++ leBytes 1 e.rank.toNat ++ leBytes 4 e.state ++ leBytes 8 e.ptroot.toNat ++
    leBytes 8 e.boundsPa.toNat ++ leBytes 8 e.imagePa.toNat ++ leBytes 8 e.noticeVa.toNat ++ leBytes 8 e.contain.toNat ++
    leBytes 8 e.tdeleg.toNat ++ leBytes 8 e.uhentry.toNat ++ leBytes 8 e.undoPa.toNat ++ leBytes 8 e.undoLen.toNat ++
    leBytes 8 e.recPa.toNat ++ leBytes 8 e.acthr.toNat ++ leBytes 8 e.trigVa.toNat ++ List.replicate 144 0

/-- The CRC of an entry matches (R296, R298). -/
def ctxSealed (ctx : Nat) (e : CtxEntry) : Bool := e.crc == crc32c 0 (ctxBytes ctx e)

/-- Replace an entry. -/
def State.putCtx (s : State) (ctx : Nat) (e : CtxEntry) : State :=
  { s with mast := { s.mast with registry := s.mast.registry.set ctx e {} } }

/-- Change fields of an entry; a CRC that matched goes on to match. -/
def State.updCtx (s : State) (ctx : Nat) (f : CtxEntry → CtxEntry) : State :=
  let e := s.ctx ctx
  let e' := f e
  s.putCtx ctx (if ctxSealed ctx e then { e' with crc := crc32c 0 (ctxBytes ctx e') } else e')

end Sys2Proof.Machine
end

