-- ==== Sys2Proof/Config.lean ====
section
/-! DEFINITION. What the manual names without giving it: free values. Each is an opaque constant with no
body, so that nothing can be proved of its value (notes/assumptions/10.md, 11.md, 12.md). -/
namespace Sys2Proof

/-- R275: whether SLH-DSA-SHA2-128s accepts a signature (public key, message, signature). The manual names
the scheme and gives no algorithm (log 10). -/
opaque Config.slhDsaVerify : List Byte → List Byte → List Byte → Bool

/-- R302: one byte of a 64-byte line that was written under the key slot and load `(oldSlot, oldLoad)` and is
read under `(newSlot, newLoad)`: the decryption, under the new key, of the ciphertext made under the old one.
Arguments: old slot, old load, new slot, new load, line number PA/64, the 64 bytes written, byte index
(log 11). -/
opaque Config.crossKeyByte : Nat → Nat → Nat → Nat → Nat → List Byte → Nat → Byte

/-- A free value of 64 bits, applied to the free-value counter of the state: what a peer's memory answers to a load or an atomic
(R211, R213), the status of the boot stage that fails (R274), and whether a line that has failed once fails again (R301). The
manual gives none of them (log 12). -/
opaque Config.freeWord : Nat → W64

end Sys2Proof
end

