-- ==== Sys2Proof/Machine/Translate.lean ====
section
/-! DEFINITION. Device memory under its keys (R17, R302), the undo log (R299), bounds tables and page tables (R228 to
R235), TLBs (R236, R237), access counters (R242) and fault records (R239). -/
namespace Sys2Proof.Machine

/-! ### Device memory -/

/-- The size of device memory (R17). -/
def memSize : Nat := 2 ^ 39

/-- The key and load under which a line is accessed now. -/
def Keys.now (k : Keys) (slot : Nat) : Nat × Nat := (slot, k.loads.get slot 0)

/-- A byte of device memory as read under a key slot (R302). A line that nothing has written reads 0 (log 3); one
written under another key or load reads as the decryption of its ciphertext (log 11). -/
def State.memByte (s : State) (slot pa : Nat) : Byte :=
  match s.keys.lines.get (pa / 64) none with
  | none => SMap.get (α := Byte) s.mem pa 0
  | some k =>
    let n := s.keys.now slot
    if k = n then SMap.get (α := Byte) s.mem pa 0
    else Config.crossKeyByte k.1 k.2 n.1 n.2 (pa / 64) (readBytes s.mem (64 * (pa / 64)) 64) (pa % 64)

/-- `n` bytes of device memory from `pa`. -/
def State.memRead (s : State) (slot pa n : Nat) : List Byte := (List.range n).map fun i => s.memByte slot (pa + i)

/-- A line takes the key under which it is about to be written in part: its other bytes become what they read as. -/
def State.rekey (s : State) (slot line : Nat) : State :=
  let n := s.keys.now slot
  if s.keys.lines.get line none = some n then s
  else
    let bs := s.memRead slot (64 * line) 64
    { s with mem := writeBytes s.mem (64 * line) bs, keys := { s.keys with lines := s.keys.lines.set line (some n) none } }

/-- The lines that `n` bytes at `a` touch. -/
def linesOf (a n : Nat) : List Nat := if n = 0 then [] else (List.range ((a + n - 1) / 64 + 1 - a / 64)).map (a / 64 + ·)

/-- Write bytes to device memory under a key slot. -/
def State.memWrite (s : State) (slot pa : Nat) (bs : List Byte) : State :=
  let s := (linesOf pa bs.length).foldl (fun s l => s.rekey slot l) s
  { s with mem := writeBytes s.mem pa bs }

/-- Bytes read by a physical address that names no key: queue descriptors, bounds tables, page tables. They are read as
they were written (log 14). -/
def State.physRead (s : State) (pa n : Nat) : List Byte := readBytes s.mem pa n

/-- The little-endian value of bytes read by physical address. -/
def State.mastWord (s : State) (pa n : Nat) : Nat := leNat (s.physRead pa n)

/-- A write by a physical address that names no key: each line keeps its key; a line that nothing has written takes the
Mast's (log 14). -/
def State.physWrite (s : State) (pa : Nat) (bs : List Byte) : State :=
  let s := (linesOf pa bs.length).foldl (fun s l => if s.keys.lines.get l none = none then s.rekey 0 l else s) s
  { s with mem := writeBytes s.mem pa bs }

/-! ### The undo log -/

/-- The recovery state of a context. -/
def State.recOf (s : State) (ctx : Nat) : Recov := s.recov.get ctx {}

/-- Replace the recovery state of a context. -/
def State.setRec (s : State) (ctx : Nat) (r : Recov) : State := { s with recov := s.recov.set ctx r {} }

/-- Records that the memory log of a context holds (R299). -/
def State.logRoom (s : State) (ctx : Nat) : Nat := (s.ctx ctx).undoLen.toNat / 80 - (s.recOf ctx).log.length

/-- The lines of an access that the memory log lacks. -/
def State.newLines (s : State) (ctx pa n : Nat) : List Nat :=
  (linesOf pa n).filter fun l => !(s.recOf ctx).log.any fun p => p.1 == 64 * l

/-- One record of the memory log (R299): kept with the line's key, and appended at UNDOPA. -/
def State.logLine (s : State) (ctx line : Nat) : State :=
  let r := s.recOf ctx
  let old := readBytes s.mem (64 * line) 64
  let pa := (s.ctx ctx).undoPa.toNat + 80 * r.log.length
  let s := s.setRec ctx { r with log := (64 * line, old, s.keys.lines.get line none) :: r.log }
  s.physWrite pa (leBytes 16 (64 * line) ++ old)

/-- A write of a context to local device memory, logged when the context's are (R299). -/
def State.ctxWrite (s : State) (ctx slot pa : Nat) (bs : List Byte) : State :=
  let s := if s.logged ctx then (s.newLines ctx pa bs.length).foldl (fun s l => s.logLine ctx l) s else s
  s.memWrite slot pa bs

/-- A record of the memory log after a peer's write under key `n` (R216): of a line that the write touches it holds what the line would hold had the
peer alone written to it, under the peer's key (R302). -/
def patchLog (n : Nat × Nat) (pa : Nat) (bs : List Byte) (p : Nat × List Byte × Option (Nat × Nat)) :
    Nat × List Byte × Option (Nat × Nat) :=
  let old (i : Nat) : Byte := match p.2.2 with
    | none => p.2.1.getD i 0
    | some k => if k = n then p.2.1.getD i 0 else Config.crossKeyByte k.1 k.2 n.1 n.2 (p.1 / 64) p.2.1 i
  if !(linesOf pa bs.length).contains (p.1 / 64) then p
  else (p.1, (List.range 64).map fun i =>
    if pa ≤ p.1 + i ∧ p.1 + i < pa + bs.length then bs.getD (p.1 + i - pa) 0 else old i, some n)

/-- A peer's write: not logged, and kept by every rollback (R216). -/
def State.peerWriteMem (s : State) (slot pa : Nat) (bs : List Byte) : State :=
  let s := { s with recov := s.recov.map fun (p : Nat × Recov) => (p.1, { p.2 with log := p.2.log.map (patchLog (s.keys.now slot) pa bs) }) }
  s.memWrite slot pa bs

/-! ### Bounds -/

/-- The bounds table passes an extent of `n` bytes at `va` (R229, R230). -/
def State.boundsOk (s : State) (ctx va n : Nat) (rd wr : Bool) : Bool :=
  let last := va + n - 1
  let region := va / 2 ^ 57
  let e : W128 := BitVec.ofNat 128 (s.mastWord ((s.ctx ctx).boundsPa.toNat + 16 * region) 16)
  decide (last < 2 ^ 64) && decide (last / 2 ^ 57 = region) && flag e 63 &&
    decide ((fld e 0 57).toNat ≤ va % 2 ^ 57) && decide (last % 2 ^ 57 ≤ (fld e 64 57).toNat) &&
    (!rd || flag e 61) && (!wr || flag e 60)

/-! ### The walk -/

/-- EGR of a leaf (R211). -/
def leafEgr (e : W64) : Nat := (fld e 61 3).toNat
/-- KEY of a leaf. -/
def leafKey (e : W64) : Nat := (fld e 51 10).toNat
/-- ORDK of a leaf (R183). -/
def leafOrd (e : W64) : Nat := (fld e 49 2).toNat
/-- ACE of a leaf. -/
def leafAce (e : W64) : Bool := flag e 48
/-- FRAME of an entry as a physical address. -/
def entryPa (e : W64) : Nat := 4096 * (fld e 12 36).toNat

/-- A valid entry at level `l` is malformed (R234); `size` is the log of the size of the page that it stands for. -/
def entryBad (l : Nat) (size : Nat) (e : W64) : Bool :=
  let leaf := flag e 1
  fld e 8 4 != 0 || fld e 5 2 != 0 || flag e 2 ||
  (!leaf && (fld e 48 16 != 0 || flag e 7 || fld e 3 2 != 0)) ||
  (leaf && decide (3 ≤ l)) || (!leaf && decide (l = 0)) || (flag e 7 && decide (l ≠ 0)) ||
  leafOrd e == 3 || decide (5 ≤ leafEgr e) || (leafEgr e == 0 && decide (memSize ≤ entryPa e)) ||
  (leaf && !flag e 7 && decide (entryPa e % 2 ^ size ≠ 0))

/-- The log of the page size of a leaf at level `l` without SPAN (R231). -/
def levelSize (l : Nat) : Nat := 12 + 9 * l

/-- The entry of level `l` for `va` in a table. -/
def State.entry (s : State) (l table va : Nat) : W64 :=
  BitVec.ofNat 64 (s.mastWord (table + 8 * (va / 2 ^ (12 + 9 * l) % 512)) 8)

/-- The walk of R231 to R234 from a table of level `l`: the log of the page size and the leaf, or the fault's cause
and level. -/
def State.walk (s : State) (va : Nat) : Nat → Nat → Except (Nat × Nat) (Nat × W64)
  | 0, table =>
    let e := s.entry 0 table va
    if !flag e 0 then .error (0, 0)
    else if entryBad 0 12 e then .error (2, 0)
    else if !flag e 7 then .ok (12, e)
    else
      let h := s.entry 0 table (va / 2 ^ 16 * 2 ^ 16)
      if !flag h 0 || !flag h 7 || entryBad 0 12 h || entryPa h % 2 ^ 16 != 0 then .error (2, 0) else .ok (16, h)
  | l + 1, table =>
    let e := s.entry (l + 1) table va
    if !flag e 0 then .error (0, l + 1)
    else if entryBad (l + 1) (levelSize (l + 1)) e then .error (2, l + 1)
    else if flag e 1 then .ok (levelSize (l + 1), e)
    else s.walk va l (entryPa e)

/-- The walk of a context's tables (R231). -/
def State.walkCtx (s : State) (ctx va : Nat) : Except (Nat × Nat) (Nat × W64) :=
  s.walk (va % 2 ^ 57) 4 ((s.ctx ctx).ptroot.toNat / 4096 * 4096)

/-! ### TLBs -/

/-- The bits of a leaf that are attributes of its page (R233, R237). -/
def leafAttrs (e : W64) : W64 := e &&& 0xFFFF000000000018

/-- The entries of a TLB that match. -/
def tlbHits (l : List TlbEntry) (ctx va : Nat) : List TlbEntry :=
  l.filter fun e => e.ctx == ctx && decide (e.va ≤ va) && decide (va < e.va + e.size)

/-- Two matching entries of different sizes disagree (R237). -/
def tlbConflict (l : List TlbEntry) : Bool :=
  l.any fun a => l.any fun b => a.size != b.size && (a.pa + b.va != b.pa + a.va || leafAttrs a.leaf != leafAttrs b.leaf)

/-- A translation: physical address, bytes left in the page, the leaf. -/
structure Xlat where
  pa : Nat
  left : Nat
  leaf : W64
  deriving DecidableEq, Repr, Inhabited

/-- Add an entry; the oldest goes when the TLB is full. -/
def tlbAdd (cap : Nat) (l : List TlbEntry) (e : TlbEntry) : List TlbEntry :=
  if l.contains e then l else (if cap ≤ l.length then l.tail else l) ++ [e]

/-- A die; die 4 is the IO-die. -/
def State.die (s : State) (n : Nat) : Die := s.dies.get n {}

/-- Replace a die. -/
def State.setDie (s : State) (n : Nat) (d : Die) : State := { s with dies := s.dies.set n d {} }

/-- The die whose last-level TLB a requester uses. -/
def dieOf (core : Option Nat) : Nat := match core with | some c => c / 36 | none => 4

/-- The level that a fault on a page of the given size reports. -/
def sizeLevel (size : Nat) : Nat := if size < 2 ^ 21 then 0 else if size < 2 ^ 30 then 1 else 2

/-- The rights and the key of a leaf (R239 cause 1, R302). -/
def State.leafFault (s : State) (ctx : Nat) (size : Nat) (leaf : W64) (rd wr : Bool) : Option (Nat × Nat) :=
  if (rd && !flag leaf 3) || (wr && !flag leaf 4) then some (1, sizeLevel size)
  else if s.keys.owner.get (leafKey leaf) none != some (s.ctx ctx).partition then some (1, sizeLevel size)
  else none

/-- The translation of one address for a context on behalf of a core's copy engine, or of the IO-die (R228 to R237): the
TLBs as it leaves them, and the result, or the fault's cause and level. The stations and the front end share one TLB of the IO-die (log 24). -/
def State.translate (s : State) (ctx : Nat) (core : Option Nat) (va : Nat) (rd wr : Bool) :
    State × Except (Nat × Nat) Xlat :=
  let d := dieOf core
  let l1 := match core with | some c => (s.core c).tlb | none => []
  let h1 := tlbHits l1 ctx va
  let h2 := tlbHits (s.die d).tlb ctx va
  let setL1 (s : State) (l : List TlbEntry) : State :=
    match core with
    | some c => s.updCore c fun k => { k with tlb := l }
    | none => s
  let setL2 (s : State) (l : List TlbEntry) : State := s.setDie d { s.die d with tlb := l }
  let done (s : State) (e : TlbEntry) : State × Except (Nat × Nat) Xlat :=
    match s.leafFault ctx e.size e.leaf rd wr with
    | some f => (s, .error f)
    | none => (s, .ok ⟨e.pa + (va - e.va), e.size - (va - e.va), e.leaf⟩)
  if tlbConflict h1 then (setL1 s (l1.filter fun e => !h1.contains e), .error (3, 7))
  else match h1 with
  | e :: _ => done s e
  | [] =>
    if tlbConflict h2 then (setL2 s ((s.die d).tlb.filter fun e => !h2.contains e), .error (3, 7))
    else match h2 with
    | e :: _ => done (setL1 s (tlbAdd 64 l1 e)) e
    | [] =>
      match s.walkCtx ctx va with
      | .error f => (s, .error f)
      | .ok (b, leaf) =>
        let e : TlbEntry := ⟨ctx, va / 2 ^ b * 2 ^ b, entryPa leaf, 2 ^ b, leaf⟩
        done (setL2 (setL1 s (tlbAdd 64 l1 e)) (tlbAdd 8192 (s.die d).tlb e)) e

/-- The translation without any change of the TLBs, as the ordering of R183 and R184 looks at a page. -/
def State.peekLeaf (s : State) (ctx : Nat) (core : Option Nat) (va : Nat) : Option Xlat :=
  match (s.translate ctx core va false false).2 with
  | .ok x => some x
  | .error _ => none

/-! ### Access counters -/

/-- `n` increments of a counter, which becomes the one incremented last; a new key takes the one incremented longest ago (R242). -/
def bump (ctx block n : Nat) (l : List AccCount) : List AccCount :=
  match l.find? fun c => c.ctx == ctx && c.block == block with
  | some c => (l.filter fun c => !(c.ctx == ctx && c.block == block)) ++ [{ c with count := c.count + n }]
  | none => (if 4096 ≤ l.length then l.tail else l) ++ [⟨ctx, block, n⟩]

/-- The 64 KiB blocks that `n` bytes at `va` touch, each with the lines of the access in it. -/
def blockLines (va n : Nat) : List (Nat × Nat) :=
  if n = 0 then []
  else (List.range ((va + n - 1) / 2 ^ 16 + 1 - va / 2 ^ 16)).map fun i =>
    let b := va / 2 ^ 16 + i
    let first := max va (b * 2 ^ 16)
    let last := min (va + n - 1) (b * 2 ^ 16 + 2 ^ 16 - 1)
    (b, last / 64 + 1 - first / 64)

/-- The access-counter threshold event of a counter (R242, R277). -/
def State.counterEvent (s : State) (die ctx block : Nat) : State :=
  s.post 7 (okey 1 ctx) (BitVec.ofNat 64 (block % 2 ^ 48 * 2 ^ 16 + ctx % 2 ^ 16))
    (BitVec.ofNat 64 ((s.ctx ctx).acthr.toNat % 2 ^ 16 * 2 ^ 16 + die % 8))

/-- A counter gives way to a new key; the events of a threshold that it has reached are raised first, and what is left of its count is lost
(R242). -/
def State.loseCounter (s : State) (die : Nat) (c : AccCount) : State :=
  (List.range (c.count / (s.ctx c.ctx).acthr.toNat)).foldl (fun s _ => s.counterEvent die c.ctx c.block) s

/-- The lines of one block count (R242). -/
def State.countBlock (ctx die : Nat) (s : State) (p : Nat × Nat) : State :=
  let l := (s.die die).counters
  let s := if 4096 ≤ l.length ∧ !l.any (fun c => c.ctx == ctx && c.block == p.1) then (l.head?.map (s.loseCounter die)).getD s else s
  s.setDie die { s.die die with counters := bump ctx p.1 p.2 l }

/-- The lines of an access of a copy engine, or of a peer's request, on a page with ACE = 1 count, each for its block (R242). -/
def State.countAccess (s : State) (ctx : Nat) (core : Option Nat) (va n : Nat) (leaf : W64) : State :=
  if leafAce leaf then (blockLines va n).foldl (State.countBlock ctx (dieOf core)) s else s

/-! ### Fault records -/

/-- The low 64 bits of a fault record (R239). -/
def FaultRec.low (f : FaultRec) : W64 :=
  BitVec.ofNat 64 (f.ctx % 2 ^ 16 * 2 ^ 48 + f.core % 2 ^ 8 * 2 ^ 40 + (if f.strm = .miz then 2 ^ 39 else 0) +
    f.src % 8 * 2 ^ 36 + f.cause % 16 * 2 ^ 32 + f.level % 8 * 2 ^ 29 + (if f.write then 2 ^ 28 else 0) + f.tok.toNat * 2 ^ 22)

/-- A record is written to the fault buffer and event 6 is posted (R239, R277). -/
def State.addFault (s : State) (f : FaultRec) : State :=
  let f := { f with n := s.nextFault }
  { s with faults := s.faults ++ [f], nextFault := s.nextFault + 1 }.post 6 (okey 1 f.ctx) f.low f.va

end Sys2Proof.Machine
end

