-- ==== Sys2Proof/Machine/DEngine.lean ====
section
/-! DEFINITION. The copy engine's shared operations: what a D operation touches, when it may act (R167, R183 to R189),
how its bytes move, page by page (R211 to R215, R218 to R224, R230, R239, R240, R300), and the memory atomics (R190 to
R192, R329). -/
namespace Sys2Proof.Machine

/-! ### Peers -/

/-- Whether a peer-table entry is valid: V = 1 and no nonzero Reserved field (R283). -/
def peerValid (e : List Byte) : Bool :=
  let b (n : Nat) : Nat := (e.getD n 0).toNat
  let ua := b 0 / 2 % 2 == 0
  b 0 % 2 == 1 && b 0 / 4 == 0 && (!ua || (b 1 / 16 == 0 && b 3 / 4 == 0)) && (ua || b 7 == 0) && b 26 / 8 == 0 &&
    (e.drop 27).all (· == 0)

/-- Whether R283 accepts an entry for an egress class. -/
def State.peerOk (s : State) (entry cls : Nat) : Bool :=
  let e := s.peers.table.get entry []
  peerValid e && ((e.getD 0 0).toNat / 2 % 2 == 0) == decide (cls ≤ 2)

/-- The held writes of a context are released, in issue order (R214, R215). -/
def State.releaseEgress (s : State) (ctx : Nat) : State :=
  { s with egress := s.egress.map fun e => if e.ctx = ctx then { e with released := true } else e }

/-- The launches until whose end a write takes the protection away (R215): that of the stream that makes it; for a write of the front end,
those of the context, or 0 (log 15). -/
def State.lossOf (s : State) (ctx : Nat) (r : Option SRef) : List Nat :=
  let id (st : Stream) : Nat := (st.launch.map LaunchInfo.id).getD 0
  match r with
  | some r => [id (s.stream r)]
  | none =>
    let l := (((s.streams.map (·.2)) ++ s.saved.map SavedImg.st).filter fun st => st.owner == ctx).map id
    if l.isEmpty then [0] else l.eraseDups

/-- Rollback protection is lost until the launches `ids` end (R215, R295). -/
def State.loseProtection (s : State) (ctx : Nat) (ids : List Nat) : State :=
  let r := s.recOf ctx
  ((s.setRec ctx { r with lossBy := (r.lossBy ++ ids).eraseDups, shut := false }).updCtx ctx fun e => { e with contain := e.contain ||| 4 }).releaseEgress
    ctx

/-- A launch has ended: the protection that its writes took away returns, unless another launch's did so too (R215). The log has been kept and the
recovery points have been taken all the while (R299). -/
def State.regain (s : State) (ctx launch : Nat) : State :=
  let r := s.recOf ctx
  let l := r.lossBy.filter fun n => n != launch && n != 0
  let s := s.setRec ctx { r with lossBy := l }
  if l.isEmpty then s.updCtx ctx fun e => { e with contain := e.contain &&& ~~~(4 : W64) } else s

/-- The destination that an entry names (R283): `ord` is the ordering kind of the page of a transfer, whose Ultra Ethernet messages go in
ROD mode when it is SO and in RUD mode otherwise (R211). -/
def peerDest (e : List Byte) (ord : Option Nat) : PeerDest :=
  let f (off n : Nat) : Nat := leNat ((e.drop off).take n)
  if f 0 1 / 2 % 2 = 0 then .ualink (f 1 1 % 4) (f 1 1 / 4 % 4) (f 2 2 % 1024)
  else .uet (f 1 1) (f 4 4 % 2 ^ 24) (f 8 16) (f 24 2) (f 26 1 % 8) (ord.map fun k => if k = 0 then .rod else .rud)

/-- The destination of a transfer to a page that a leaf maps to a peer. -/
def State.pageDest (s : State) (x : Nat) (leaf : W64) : PeerDest :=
  peerDest (s.peers.table.get (x / 2 ^ 40 % 256) []) (some (leafOrd leaf))

/-- A message leaves the package. -/
def State.send (s : State) (m : PeerMsg) : State := { s with peers := { s.peers with outbox := s.peers.outbox ++ [m] } }

/-- A class whose writes a protected context holds (R211, R214). -/
def heldClass (egr : Nat) : Bool := egr == 1 || egr == 3

/-- Whether a context has writes in the egress buffer. -/
def State.inEgress (s : State) (ctx : Nat) : Bool := s.egress.any fun e => e.ctx == ctx

/-- A write of a context to a peer, in the protection that it needs: an immediate one of a protected context first ends the protection
(R215), and one that is not held waits until the context's released writes have been sent (R213, R215). The state, and whether it waits. -/
def State.peerGate (s : State) (ctx : Nat) (r : Option SRef) (held : Bool) : State × Bool :=
  let s' := if flag (s.ctx ctx).contain 1 && !held then s.loseProtection ctx (s.lossOf ctx r) else s
  (s', !(s'.protected ctx && held) && s'.inEgress ctx)

/-- A message of a context goes to a peer, or into the egress buffer when it is held while the context is protected (R213 to R215). -/
def State.toPeer (s : State) (ctx : Nat) (held : Bool) (size : Nat) (m : PeerMsg) : State :=
  if s.protected ctx && held then { s with egress := s.egress ++ [⟨ctx, (s.recOf ctx).interval, false, size, m⟩] }
  else s.send m

/-- Bytes of room in the egress buffer (R214): none from the moment at which it has not taken a write until the recovery point of that write's
context (R300), or until that context is rolled back, ends or loses its protection. -/
def State.egressRoom (s : State) : Nat :=
  if s.recov.any fun p => p.2.shut && s.protected p.1 then 0 else 2 ^ 25 - (s.egress.map EgItem.size).sum

/-- A write of a context to a page of an egress class, or to local memory (class 0), finds no room: its log or the egress buffer counts as full
(R300). -/
def State.noRoom (s : State) (ctx egr : Nat) : State :=
  let r := s.recOf ctx
  s.setRec ctx { r with full := true, shut := r.shut || decide (egr ≠ 0) }

/-- A free value (log 12). -/
def State.draw (s : State) : W64 × State := (Config.freeWord s.free, { s with free := s.free + 1 })

/-- `n` free bytes. -/
def State.drawBytes : Nat → State → List Byte × State
  | 0, s => ([], s)
  | n + 1, s =>
    let (w, s) := s.draw
    let (t, s) := State.drawBytes n s
    (fld w 0 8 :: t, s)

/-! ### What an operation touches -/

/-- DIR of a CPY control word (R219). -/
def cpyDir (d1 : W64) : Nat := (fld d1 62 2).toNat

/-- The index list of CPYG and CPYS (R220). -/
def indexList (spad : SMap Byte) (d1 : W64) : List Int :=
  (List.range ((fld d1 48 12).toNat + 1)).map fun i =>
    (BitVec.ofNat 32 (readLE spad (4 * (fld d1 25 23).toNat + 4 * i) 4)).toInt

/-- The extents of a copy command in the order of R223: device address, bytes, scratchpad address. -/
def copySegs (spad : SMap Byte) (k : CpyKind) (d0 d1 : W64) : List (Nat × Nat × Nat) :=
  match k with
  | .cpy => [(d0.toNat, (fld d1 32 25).toNat, (fld d1 0 25).toNat)]
  | .cpyg | .cpys =>
    let e := 2 ^ (fld d1 60 4).toNat
    let l := indexList spad d1
    (List.range l.length).filterMap fun i =>
      let x := l.getD i 0
      if x = -(2 ^ 31) then none
      else some (((d0.toNat + x * e) % 2 ^ 64).toNat, e, (fld d1 0 25).toNat + i * e)
  | .cpyx =>
    let n := 64 * (fld d1 38 12).toNat
    (List.range ((fld d1 50 8).toNat + 1)).map fun i => (d0.toNat + n * i, n, (fld d1 0 25).toNat + 1024 * i)

/-- Widths in bytes of the target and the operand of a memory atomic (R191). -/
def atomWidths (op : BitVec 4) : Nat × Nat :=
  match op.toNat with
  | 0 => (4, 4)
  | 2 => (32, 4)
  | 3 | 4 => (32, 2)
  | 11 => (8, 16)
  | _ => (8, 8)

/-- Elements of a control word in the layout of R190. -/
def atomNum (c : W64) : Nat := (fld c 50 8).toNat + 1

/-- Whether a copy command writes device memory. -/
def isStore (k : CpyKind) (d1 : W64) : Bool := k == .cpys || (k == .cpy && cpyDir d1 == 1)

/-- The scratchpad as an operation reads it: where a later operation has passed its write, the bytes that it had read by then (R201). -/
def Op.source (o : Op) (spad : SMap Byte) : SMap Byte := o.src.getD spad

/-- The extents of a copy command as it stands. -/
def Op.extents (o : Op) (spad : SMap Byte) (k : CpyKind) (d0 d1 : W64) : List (Nat × Nat × Nat) :=
  o.segs.getD (copySegs (o.source spad) k d0 d1)

/-- The device extents of an operation. -/
def devExtents (spad : SMap Byte) (o : Op) : List (Nat × Nat) :=
  match o.body with
  | .cpy k d0 d1 _ _ => (o.extents spad k d0 d1).map fun p => (p.1, p.2.1)
  | .atom _ va c op => [(va.toNat, atomNum c * (atomWidths op).1)]
  | _ => []

/-! ### Parts

The order of R223 numbers what an operation does: the bytes of a copy command, the elements of an atomic. A part is a first number and how
many follow. -/

/-- The bytes of a list of extents. -/
def segBytes (l : List (Nat × Nat × Nat)) : Nat := (l.map fun p => p.2.1).sum

/-- How many numbers an operation has. -/
def Op.total (o : Op) (spad : SMap Byte) : Nat :=
  match o.body with
  | .cpy k d0 d1 _ _ => segBytes (o.extents spad k d0 d1)
  | .atom _ _ c _ => atomNum c
  | _ => 0

/-- What part `d` leaves of part `p`. -/
def cutPart (d p : Nat × Nat) : List (Nat × Nat) :=
  let lo := max p.1 d.1
  let hi := min (p.1 + p.2) (d.1 + d.2)
  if hi ≤ lo then [p]
  else (if p.1 < lo then [(p.1, lo - p.1)] else []) ++ if hi < p.1 + p.2 then [(hi, p.1 + p.2 - hi)] else []

/-- What the parts `l` leave of part `p`. -/
def cutParts (l : List (Nat × Nat)) (p : Nat × Nat) : List (Nat × Nat) := l.foldl (fun ps d => ps.flatMap (cutPart d)) [p]

/-- The parts of an operation that have been done. -/
def Op.did (o : Op) : List (Nat × Nat) := (0, o.moved) :: o.acted

/-- Whether an operation has done some of what it does. -/
def Op.begun (o : Op) : Bool := o.moved != 0 || !o.acted.isEmpty

/-- The numbers that an operation has left. -/
def Op.left (o : Op) (spad : SMap Byte) : List (Nat × Nat) := cutParts o.did (0, o.total spad)

/-- An operation with nothing left but the parts `sel`; no part named stands for all of them. -/
def Op.only (o : Op) (spad : SMap Byte) (sel : List (Nat × Nat)) : Op :=
  if sel.isEmpty then o else { o with acted := o.acted ++ cutParts sel (0, o.total spad) }

/-- An operation that has left what it has done, and no more. -/
def Op.undone (o : Op) (spad : SMap Byte) : Op := { o with moved := 0, acted := [] }.only spad o.did

/-- The device extents left of a copy command's, whose first byte has number `pos`, after the parts `did`. -/
def restSegs (did : List (Nat × Nat)) : Nat → List (Nat × Nat × Nat) → List (Nat × Nat)
  | _, [] => []
  | pos, (va, n, _) :: t => ((cutParts did (pos, n)).map fun q => (va + (q.1 - pos), q.2)) ++ restSegs did (pos + n) t

/-- The device extents that an operation has left. -/
def restExtents (spad : SMap Byte) (o : Op) : List (Nat × Nat) :=
  match o.body with
  | .cpy k d0 d1 _ _ => restSegs o.did 0 (o.extents spad k d0 d1)
  | .atom _ va _ op => (o.left spad).map fun q => (va.toNat + q.1 * (atomWidths op).1, q.2 * (atomWidths op).1)
  | _ => []

/-- Whether number `m` is among the parts `l`, and how many numbers from `m` on, at most `n`, are alike. -/
def partRun (l : List (Nat × Nat)) (m n : Nat) : Bool × Nat :=
  match l.find? fun p => decide (p.1 ≤ m) && decide (m < p.1 + p.2) with
  | some p => (true, min n (p.1 + p.2 - m))
  | none => (false, l.foldl (fun k p => if m < p.1 then min k (p.1 - m) else k) n)

/-- The scratchpad extents of a copy command: first byte, bytes, whether it writes. -/
def copySpad (k : CpyKind) (d1 : W64) : List (Nat × Nat × Bool) :=
  let sa := (fld d1 0 25).toNat
  match k with
  | .cpy => if cpyDir d1 = 2 then [] else [(sa, (fld d1 32 25).toNat, decide (cpyDir d1 = 0))]
  | .cpyg | .cpys =>
    let n := (fld d1 48 12).toNat + 1
    [(4 * (fld d1 25 23).toNat, 4 * n, false), (sa, n * 2 ^ (fld d1 60 4).toNat, k == .cpyg)]
  | .cpyx =>
    let n := (fld d1 50 8).toNat + 1
    [(sa, 1024 * n + (if flag d1 63 then 4 else 0), true)]

/-- The page starts of an extent, at 4 KiB steps. -/
def pagesOf (va n : Nat) : List Nat :=
  if n = 0 then [] else (List.range ((va + n - 1) / 4096 + 1 - va / 4096)).map fun i => max va (4096 * (va / 4096 + i))

/-- An extent cut at 4 KiB steps: first byte, bytes. -/
def pieces (va n : Nat) : List (Nat × Nat) := (pagesOf va n).map fun a => (a, min (4096 * (a / 4096 + 1)) (va + n) - a)

/-- The pages of some device extents of a stream, with the bytes of them in each, as they translate now. -/
def State.pagesAt (s : State) (r : SRef) (l : List (Nat × Nat)) : List (Nat × Option Xlat) :=
  l.flatMap fun p => (pieces p.1 p.2).map fun q => (q.2, s.peekLeaf (s.stream r).owner (some r.core) q.1)

/-- The pages that an operation has yet to touch. -/
def State.opPages (s : State) (r : SRef) (o : Op) : List (Nat × Option Xlat) := s.pagesAt r (restExtents (s.core r.core).spad o)

/-- The ordering kind of a page (R183); one that does not translate yet counts as RC (log 26). -/
def pageKind (p : Nat × Option Xlat) : Nat := match p.2 with | some x => leafOrd x.leaf | none => 1

/-- Whether an operation is a memory atomic. -/
def OpBody.isAtom : OpBody → Bool
  | .atom .. => true
  | _ => false

/-- A transfer with a piece on an SO page is ordered as an SO access as a whole (R184). Each element of an atomic goes by its own target's page, so
the elements left decide (R192). -/
def State.touchesSO (s : State) (r : SRef) (o : Op) : Bool :=
  let spad := (s.core r.core).spad
  (s.pagesAt r (if o.body.isAtom then restExtents spad o else devExtents spad o)).any fun p => pageKind p == 0

/-- The local bytes of some pages, by physical address: first byte, bytes. -/
def localBytes (l : List (Nat × Option Xlat)) : List (Nat × Nat) :=
  l.filterMap fun p => match p.2 with
    | some x => if leafEgr x.leaf = 0 then some (x.pa, p.1) else none
    | none => none

/-- The local bytes of device memory that an operation has yet to touch, by physical address: first byte, bytes. -/
def State.physExtents (s : State) (r : SRef) (o : Op) : List (Nat × Nat) := localBytes (s.opPages r o)

/-- Of these, the bytes that acquires and releases concern: all of an SO transfer, and else those on pages other than UO (R184, R187); of an
atomic, those on SO pages (R192). -/
def State.edgeBytes (s : State) (r : SRef) (o : Op) : List (Nat × Nat) :=
  localBytes ((s.opPages r o).filter fun p => if o.body.isAtom then pageKind p == 0 else pageKind p != 2 || s.touchesSO r o)

/-! ### When an operation may act -/

/-- Whether an operation makes accesses that fences and releases cover (R187, R188, R210, R213). -/
def OpBody.accesses : OpBody → Bool
  | .cpy .. | .atom .. | .cred .. | .notify .. => true
  | _ => false

/-- Whether an operation is a fence. -/
def OpBody.isFence : OpBody → Bool
  | .fence .. => true
  | _ => false

/-- ORD of a copy command. -/
def OpBody.ord : OpBody → Nat
  | .cpy _ _ _ _ o => o.toNat
  | _ => 0

/-- Whether an operation reads device memory (R201, R211, R219). -/
def OpBody.readsDev : OpBody → Bool
  | .cpy k _ d1 _ _ => !isStore k d1
  | .atom ret .. => ret
  | _ => false

/-- Whether an operation writes device memory (R191, R211, R219). -/
def OpBody.writesDev : OpBody → Bool
  | .cpy k _ d1 _ _ => isStore k d1
  | .atom .. => true
  | _ => false

/-- Whether acquire and release edges reach what is left of an operation: not bytes of UO pages, unless the transfer is ordered as an SO access
(R183, R184, R187). -/
def State.ordered (s : State) (r : SRef) (o : Op) : Bool :=
  (devExtents (s.core r.core).spad o).isEmpty || s.touchesSO r o || (s.opPages r o).any fun p => pageKind p != 2

/-- An acquire or release has an effect unless its transfer is wholly UO (R187). -/
def State.ordEffect (s : State) (r : SRef) (o : Op) (k : Nat) : Bool := o.body.ord == k && s.ordered r o

/-- Two lists of extents share a byte. -/
def meet (a b : List (Nat × Nat)) : Bool := a.any fun p => b.any fun q => overlaps p.1 p.2 q.1 q.2

/-- Two copy commands of one alias class share a byte that one of them writes (R167 edge 4), in the scratchpad or in device memory, under
one virtual address or two. A stream copy has no such edge (R339). -/
def State.aliasShare (s : State) (r : SRef) (a b : Op) : Bool :=
  match a.body, b.body with
  | .cpy k _ d1 ac _, .cpy l _ e1 bc _ =>
    let spad := (s.core r.core).spad
    ac == bc && !a.body.isStreamCopy && !b.body.isStreamCopy &&
    (((copySpad k d1).any fun p => (copySpad l e1).any fun q => (p.2.2 || q.2.2) && overlaps p.1 p.2.1 q.1 q.2.1) ||
     ((isStore k d1 || isStore l e1) &&
      (meet (restExtents spad a) (restExtents spad b) || meet (s.physExtents r a) (s.physExtents r b))))
  | _, _ => false

/-- Whether an operation of a protected context has a write to enter in the egress buffer (R214); `unknown` answers for a page that does
not translate yet. -/
def State.heldWrite (s : State) (r : SRef) (o : Op) (unknown : Bool) : Bool :=
  match o.body with
  | .notify d => !flag d 40
  | b => b.writesDev && (s.opPages r o).any fun p => match p.2 with
    | some x => heldClass (leafEgr x.leaf)
    | none => unknown

/-- An edge other than a fence's by which an earlier operation `e` of the stream holds back the later operation `o`: acquire and release
(R187) but for UO bytes, as far as the two have them left, which every access to an SO page is too (R183); SO pages; alias classes (R167); the issue order of held writes (R214); what a CRED
and a GDONE follow (R210, R264). -/
def State.directEdge (s : State) (r : SRef) (e o : Op) : Bool :=
  let dev (x : Op) : Bool := match x.body with | .cpy .. | .atom .. => true | _ => false
  let acc (x : Op) : Bool := x.body.accesses || x.body.isFence
  let so : Op → Bool := s.touchesSO r
  let waits : Bool := match o.body, e.body with
    | .cred .., .cred .. => false
    | .cred .., b | .gdone _, b => b.accesses
    | _, _ => false
  waits || (acc o && s.ordEffect r e 1 && s.ordered r o) || (acc e && s.ordEffect r o 2 && s.ordered r e) || s.aliasShare r e o ||
  (dev e && dev o && (so e || so o)) || (acc o && !dev o && e.body.readsDev && so e) ||
  (acc e && !dev e && o.body.writesDev && so o) ||
  (s.protected (s.stream r).owner && s.heldWrite r o false && s.heldWrite r e true)

/-- An earlier operation `e` of the stream holds back the later operation `o` (R167, R183, R187 to R189). A fence orders every pair here;
the pairs that its kind and its scope leave open are those of `State.mayPass`. -/
def State.holdsBack (s : State) (r : SRef) (e o : Op) : Bool :=
  let acc (x : Op) : Bool := x.body.accesses || x.body.isFence
  (e.body.isFence && acc o) || (o.body.isFence && acc e) || s.directEdge r e o

/-- The operations of a list that were issued before `id` and have not finished (R185). -/
def earlier (id : Nat) (l : List Op) : List Op := l.filter fun o => decide (o.id < id) && o.stage != .finished

/-- What is left of the marks of a stream: those with a passed write that has yet to be made. -/
def Stream.marks (st : Stream) : List EarlyMark :=
  st.early.filter fun m => st.dq.any fun o => o.stage != .finished && m.passed.contains o.id

/-- Whether the bytes `l` belong to a target of an ATOMR that has been passed and has yet to act; the ATOMR itself is `me` (R192, R201). -/
def State.locked (s : State) (me : Option (SRef × Nat)) (l : List (Nat × Nat)) : Bool :=
  (s.streams ++ s.saved.map fun i => (i.r, i.st)).any fun p => p.2.marks.any fun m =>
    meet m.lock l && !me.any fun q => q.1 == p.1 && m.passed.contains q.2

/-- Whether stream `q` is an agent inside the scope of a fence of stream `r` (R106, R188). -/
def State.inScope (s : State) (scope : Nat) (r q : SRef) : Bool :=
  match scope with
  | 0 => r == q
  | 1 => r.core == q.core
  | 2 => (s.gang r).contains q
  | 3 => r.core / 36 == q.core / 36
  | _ => true

/-- Whether any stream has passed a fence. -/
def State.hasMarks (s : State) : Bool := (s.streams.any fun p => !p.2.early.isEmpty) || s.saved.any fun i => !i.st.early.isEmpty

/-- The ranges that a reader may not read yet; `inside` says for which scope and stream of a fence it is an agent inside the scope. A passed
operation, which is `me`, does not wait for itself. -/
def State.marked (s : State) (me : Option (SRef × Nat)) (inside : Nat → SRef → Bool) (l : List (Nat × Nat)) : Bool :=
  (s.streams ++ s.saved.map fun i => (i.r, i.st)).any fun p => p.2.marks.any fun m =>
    inside m.scope p.1 && meet m.ranges l && !me.any fun q => q.1 == p.1 && m.passed.contains q.2

/-- A store that has made some of its writes and has yet to finish. Each element of an atomic is whole (R192). -/
def Op.halfStored (e : Op) : Bool := e.body.writesDev && !e.body.isAtom && e.begun && e.stage != .finished

/-- Whether there is one. -/
def State.hasHalves (s : State) : Bool := (s.streams.any fun p => p.2.dq.any Op.halfStored) || s.saved.any fun i => i.st.dq.any Op.halfStored

/-- A release that has made some of its writes and not all of them, a store with .REL or one to an SO page (R183, R187): one that `waits` says stands
still has written some of the bytes `l`, so that what an acquire reads there has to wait for the rest. -/
def State.relOpen (s : State) (waits : Op → Bool) (l : List (Nat × Nat)) : Bool :=
  (s.streams ++ s.saved.map fun i => (i.r, i.st)).any fun p => p.2.dq.any fun e =>
    e.halfStored && waits e && !(e.left (s.core p.1.core).spad).isEmpty && (e.body.ord == 2 || s.touchesSO p.1 e) &&
      meet (s.edgeBytes p.1 (e.undone (s.core p.1.core).spad)) l

/-- Whether an operation reads as an acquire (R183, R187). -/
def State.acquires (s : State) (r : SRef) (o : Op) : Bool := o.body.readsDev && (s.ordEffect r o 1 || s.touchesSO r o)

/-- An acquire waits for a release some of whose bytes it would read (R187). -/
def State.acqWaits (s : State) (r : SRef) (o : Op) (waits : Op → Bool) : Bool :=
  s.hasHalves && s.acquires r o && s.relOpen waits (s.edgeBytes r o)

/-- A release, or a fence with scope .FAB, of a context without protection waits until the context's released writes have been sent (R213). -/
def State.egressWait (s : State) (r : SRef) (o : Op) : Bool :=
  let ctx := (s.stream r).owner
  let covers : Bool := match o.body with
    | .fence scope _ => scope == 5
    | _ => s.ordEffect r o 2
  s.inEgress ctx && !s.protected ctx && covers

/-- Whether every generation that an operation consumes is set (R164). -/
def tokensSet (st : Stream) (o : Op) : Bool := o.ins.all fun g => (st.gen g).set

/-- Whether a consumed generation carries an error (R165). -/
def tokensBad (st : Stream) (o : Op) : Bool := o.ins.any fun g => decide (2 ≤ (st.gen g).status)

/-- Whether a dispatched operation may act now: its tokens are set, nothing suspends it, and no operation issued earlier holds
it back. One that is still held does so too (R183, R185), which only a stream copy can meet. -/
def State.dReady (s : State) (r : SRef) (o : Op) : Bool :=
  let st := s.stream r
  o.stage != .finished && tokensSet st o && o.fault.isNone && !o.halted &&
    (tokensBad st o || (((earlier o.id (st.dq ++ st.dheld)).all fun e => !s.holdsBack r e o) && !s.egressWait r o &&
      !s.acqWaits r o (fun _ => true) &&
      !(o.body.readsDev && s.hasMarks && s.marked (some (r, o.id)) (fun scope f => s.inScope scope f r) (s.physExtents r o))))

/-- The operation that a reference to a CRED names, while it has not completed. -/
def State.credOp (s : State) (c : CredRef) : Option Op :=
  ((s.streams ++ s.saved.map fun i => (i.r, i.st)).find? fun p => (p.2.launch.map LaunchInfo.id) == some c.launch && p.1 == c.r).bind
    fun p => p.2.dq.find? fun o => o.id == c.id

/-- Whether an access of a CRED is still to come: it has not reached its router, or it is the root's and its result block has not been
written (R210). -/
def State.credOpen (s : State) (c : CredRef) : Bool :=
  match s.credOp c with
  | none => false
  | some o => o.inst.isNone || (!o.sent && s.fabric.nodes.any fun n => n.2.insts.any fun i => i.own.any fun p =>
      p.who == some c && p.desc.any fun d => d.1 == keyCore n.1 && d.2.1 == 0xFFFF)

/-- Whether a stream copy waits for a held operation: for its token, or for one that was issued earlier (R85, R185). -/
def State.copyHeld (s : State) (r : SRef) (c : Op) : Bool :=
  let st := s.stream r
  (c.ins.any fun g => !(st.gen g).set && heldGen st 40 g) || (earlier c.id st.dheld).any fun e => s.holdsBack r e c

/-- A dispatched operation of a stream. -/
def State.dOp (s : State) (r : SRef) (id : Nat) : Option Op := (s.stream r).dq.find? fun o => o.id == id

/-- Replace a dispatched operation. -/
def State.setDOp (s : State) (r : SRef) (o : Op) : State :=
  s.updStream r fun st => { st with dq := st.dq.map fun x => if x.id = o.id then o else x }

/-- A D operation retires: its token is set with its status (R164) and it leaves the queue. A stream copy that no operation
has taken keeps its place in the matching order (R226). -/
def State.dRetire (s : State) (r : SRef) (o : Op) (status : Nat) : State :=
  s.updStream r fun st =>
    let st := setGen st o.out status 0
    if o.body.isStreamCopy && o.moved == 0 then
      { st with dq := st.dq.map fun x => if x.id = o.id then { o with stage := .finished, status } else x }
    else { st with dq := st.dq.filter fun x => x.id != o.id }

/-! ### Checks before a byte moves -/

/-- The checks of status 12 that a copy command's control word allows (R219 to R221, R223, R224, R338, R339). -/
def copyBad (k : CpyKind) (d1 : W64) (ord : BitVec 2) : Bool :=
  match k with
  | .cpy =>
    let len := (fld d1 32 25).toNat
    cpyDir d1 == 3 || len == 0 || decide (0x1800000 < len) || (cpyDir d1 == 2 && ord != 0) ||
      (copySpad k d1).any fun p => !inSpad p.1 p.2.1
  | .cpyg | .cpys => decide (13 ≤ (fld d1 60 4).toNat) || (copySpad k d1).any fun p => !inSpad p.1 p.2.1
  | .cpyx => fld d1 38 12 == 0 || fld d1 0 6 != 0 || (copySpad k d1).any fun p => !inSpad p.1 p.2.1

/-- A page of the extents that translates now names a peer-table entry that R283 rejects. -/
def State.peerBad (s : State) (r : SRef) (l : List (Nat × Nat)) : Bool :=
  l.any fun p => (pagesOf p.1 p.2).any fun va =>
    match s.peekLeaf (s.stream r).owner (some r.core) va with
    | some x => leafEgr x.leaf != 0 && !s.peerOk (x.pa / 2 ^ 40 % 256) (leafEgr x.leaf)
    | none => false

/-- How an attempt of a D operation ends; `halted` says whether it is the core's log that has no room (R300), `wait` keeps what it has done until its context's released writes have been sent. -/
inductive DEnd where
  | done (status : Nat)
  | fault (va cause level : Nat) (write : Bool)
  | halted (core : Bool)
  | wait
  deriving DecidableEq, Repr, Inhabited

/-- Whether a scratchpad access of a D operation lies in the stream's sets (R178). -/
def dInSets (st : Stream) (a n : Nat) (write : Bool) : Bool :=
  match st.regs.phase.sets with
  | none => true
  | some l => inSets l 4 a n write

/-- Whether a write to the scratchpad of a context whose writes are logged has room in the core's log (R299, R300). -/
def spadRoom (ctx : Nat) (c : Core) (a n : Nat) : Bool := decide ((logLines ctx c.undo c.spad a n).length ≤ 4096)

/-- A core's log is full for a context: it, and every context of logged writes with records there, takes a recovery point (R299). -/
def State.coreLogFull (ctx : Nat) (s : State) (core : Nat) : State :=
  ((ctx :: (s.core core).undo.map (·.1)).eraseDups.filter s.logged).foldl (fun s c => s.setRec c { s.recOf c with full := true }) s

/-- A D operation's write to the scratchpad of its core. -/
def State.dSpadWrite (s : State) (r : SRef) (a : Nat) (bs : List Byte) : State :=
  s.updCore r.core fun c => coreSpadWrite (logSpad (s.logged (s.stream r).owner) (s.stream r).owner c a bs.length) a bs

/-! ### Moving bytes -/

/-- Skip the bytes that have been moved (R240). -/
def dropSegs : Nat → List (Nat × Nat × Nat) → List (Nat × Nat × Nat)
  | _, [] => []
  | m, (va, n, sp) :: t => if n ≤ m then dropSegs (m - n) t else (va + m, n - m, sp + m) :: t

/-- A record of CPYX that has been read whole: its vector is written (R221, R248), or it is malformed. `bs` is the record
slot. -/
def State.expandAt (s : State) (r : SRef) (o : Op) (sp : Nat) (bs : List Byte) : Option (State × Op) :=
  let len := RecordLen.ofWord (BitVec.ofNat 32 (leNat (bs.take 4)))
  if recordBad bs || decide (bs.length < len.size) then none
  else
    let v := expandRecord bs
    some (s.dSpadWrite r sp v, { o with data := [], crc := crc32c o.crc v })

/-- One piece of a copy within one page (R211, R219): a load or a stream copy reads, a store writes. -/
def State.movePiece (s : State) (r : SRef) (o : Op) (store : Bool) (va m sp : Nat) (x : Xlat) : State × Op :=
  let ctx := (s.stream r).owner
  let egr := leafEgr x.leaf
  let s := s.countAccess ctx (some r.core) va m x.leaf
  let o' := { o with moved := o.moved + m }
  if store then
    let bs := readBytes (o.source (s.core r.core).spad) sp m
    if egr = 0 then (s.ctxWrite ctx (leafKey x.leaf) x.pa bs, o')
    else (s.toPeer ctx (heldClass egr) m (.write (s.pageDest x.pa x.leaf) (x.pa % 2 ^ 40) bs), o')
  else
    let (bs, s) :=
      if egr = 0 then (s.memRead (leafKey x.leaf) x.pa m, s)
      else
        let p := s.drawBytes m
        (p.1, p.2.send (.read (s.pageDest x.pa x.leaf) (x.pa % 2 ^ 40) m))
    match o.body with
    | .cpy .cpyx .. => (s, { o' with data := o.data ++ bs })
    | .cpy .cpy _ d1 _ _ => if cpyDir d1 = 2 then (s, { o' with data := o.data ++ bs }) else (s.dSpadWrite r sp bs, o')
    | _ => (s.dSpadWrite r sp bs, o')

/-- Whether a piece has the room that R300 asks for. -/
def State.pieceRoom (s : State) (r : SRef) (store : Bool) (m sp : Nat) (x : Xlat) : Bool :=
  let ctx := (s.stream r).owner
  let egr := leafEgr x.leaf
  !s.logged ctx ||
  (if store then
    if egr = 0 then decide ((s.newLines ctx x.pa m).length ≤ s.logRoom ctx)
    else !(s.protected ctx && heldClass egr) || decide (m ≤ s.egressRoom)
   else spadRoom ctx (s.core r.core) sp m)

/-- Move the bytes that are left, page by page in the order of R223; line by line for a context whose writes are logged, so that it
can stop under R300. -/
def State.copyLoop (r : SRef) (store : Bool) : Nat → State → Op → List (Nat × Nat × Nat) → State × Op × DEnd
  | 0, s, o, _ => (s, o, .done 0)
  | _, s, o, [] => (s, o, .done 0)
  | fuel + 1, s, o, (va, n, sp) :: t =>
    let ctx := (s.stream r).owner
    let stream := o.body.isStreamCopy
    let cpyx := match o.body with | .cpy .cpyx .. => true | _ => false
    let (did, k) := partRun o.acted o.moved n
    if n = 0 then State.copyLoop r store fuel s o t
    else if did then State.copyLoop r store fuel s { o with moved := o.moved + k } ((va + k, n - k, sp + k) :: t)
    else match s.translate ctx (some r.core) va (!store) store with
      | (s, .error (c, l)) => (s, o, .fault va c l store)
      | (s, .ok x) =>
        let m := min k (if s.logged ctx && !stream && !cpyx then min x.left (64 - x.pa % 64) else x.left)
        if leafEgr x.leaf != 0 && !s.peerOk (x.pa / 2 ^ 40 % 256) (leafEgr x.leaf) then (s, o, .done 12)
        else if !stream && !cpyx && !dInSets (s.stream r) sp m (!store) then (s, o, .done 23)
        else if !stream && !cpyx && !s.pieceRoom r store m sp x then (if store then s.noRoom ctx (leafEgr x.leaf) else s, o, .halted !store)
        else
          let (s, busy) := if store && leafEgr x.leaf != 0 then s.peerGate ctx (some r) (heldClass (leafEgr x.leaf)) else (s, false)
          if busy || (store && s.hasMarks && s.locked none [(x.pa, m)]) then (s, o, .wait) else
          let (s, o) := s.movePiece r o store va m sp x
          if cpyx && m == n then
            match s.expandAt r o (sp + m - o.data.length) o.data with
            | none => (s, o, .done 16)
            | some (s', o') =>
              if !dInSets (s.stream r) (sp + m - o.data.length) 1024 true then (s, o, .done 23)
              else if s.logged ctx && !spadRoom ctx (s.core r.core) (sp + m - o.data.length) 1024 then
                (s, { o with moved := o.moved - o.data.length, data := [] }, .halted true)
              else State.copyLoop r store fuel s' o' t
          else State.copyLoop r store fuel s o ((va + m, n - m, sp + m) :: t)

/-- An attempt of a copy command (R223, R338): the checks, then the moves from where it stands. -/
def State.copyRun (s : State) (r : SRef) (o : Op) (k : CpyKind) (d0 d1 : W64) (ord : BitVec 2) : State × Op × DEnd :=
  let c := s.core r.core
  let ctx := (s.stream r).owner
  let store := isStore k d1
  if copyBad k d1 ord then (s, o, .done 12)
  else if (k == .cpyg || k == .cpys) && o.segs.isNone &&
      !dInSets (s.stream r) (4 * (fld d1 25 23).toNat) (4 * ((fld d1 48 12).toNat + 1)) false then (s, o, .done 23)
  else
    let fresh := o.segs.isNone
    let segs := o.extents c.spad k d0 d1
    let o := { o with segs := some segs }
    if fresh && s.peerBad r (segs.map fun p => (p.1, p.2.1)) then (s, o, .done 12)
    else if fresh && segs.any fun p => !s.boundsOk ctx p.1 p.2.1 (!store) store then (s, o, .done 13)
    else
      let rest := dropSegs o.moved segs
      let (s, o, e) := State.copyLoop r store (segBytes rest / 64 + 4 * rest.length + 4 * o.acted.length + 4) s o rest
      match e, k with
      | .done 0, .cpyx =>
        if flag d1 63 then
          let a := (fld d1 0 25).toNat + 1024 * segs.length
          if !dInSets (s.stream r) a 4 true then (s, o, .done 23)
          else if s.logged ctx && !spadRoom ctx (s.core r.core) a 4 then (s, o, .halted true)
          else (s.dSpadWrite r a (leBytes 4 o.crc.toNat), o, .done 0)
        else (s, o, e)
      | _, _ => (s, o, e)

/-! ### Memory atomics -/

/-- New(op, old, operand) of R191 on a target of `w` bytes; CAS has its pair in the operand. -/
def atomNew (op : BitVec 4) (old opnd : List Byte) : List Byte :=
  let x := leNat old
  let y := leNat opnd
  let a : W64 := BitVec.ofNat 64 x
  let b : W64 := BitVec.ofNat 64 y
  match op.toNat with
  | 0 => leBytes 4 (x + y)
  | 1 => leBytes 8 (x + y)
  | 2 => ((Fxc.ofBytes old).add (Num.decode .fp32 y)).bytes ++ old.drop 24
  | 3 => ((Fxc.ofBytes old).add (Num.decode .bf16 y)).bytes ++ old.drop 24
  | 4 => ((Fxc.ofBytes old).add (Num.decode .fp16 y)).bytes ++ old.drop 24
  | 5 => leBytes 8 (a &&& b).toNat
  | 6 => leBytes 8 (a ||| b).toNat
  | 7 => leBytes 8 (a ^^^ b).toNat
  | 8 => leBytes 8 (if a.slt b then b else a).toNat
  | 9 => leBytes 8 (if b.slt a then b else a).toNat
  | 10 => leBytes 8 y
  | 11 => if x = leNat (opnd.take 8) then opnd.drop 8 else old
  | _ => old

/-- The elements of an ATOMM or ATOMR that are left, from element `o.moved` (R191, R329). -/
def State.atomLoop (r : SRef) (ret : Bool) (va c : W64) (op : BitVec 4) : Nat → State → Op → State × Op × DEnd
  | 0, s, o => (s, o, .done 0)
  | fuel + 1, s, o =>
    let ctx := (s.stream r).owner
    let (w, ow) := atomWidths op
    let a := va.toNat + o.moved * w
    let sp := (fld c 0 25).toNat + o.moved * ow
    let rp := (fld c 25 25).toNat + o.moved * w
    if (partRun o.acted o.moved 1).1 then State.atomLoop r ret va c op fuel s { o with moved := o.moved + 1 }
    else match s.translate ctx (some r.core) a true true with
    | (s, .error (cs, l)) => (s, o, .fault a cs l true)
    | (s, .ok x) =>
      let egr := leafEgr x.leaf
      let entry := x.pa / 2 ^ 40 % 256
      if egr != 0 && !s.peerOk entry egr then (s, o, .done 12)
      else if !dInSets (s.stream r) sp ow false || (ret && !dInSets (s.stream r) rp w true) then (s, o, .done 23)
      else if !s.pieceRoom r true (if egr = 0 then w else ow) sp x then (s.noRoom ctx egr, o, .halted false)
      else if ret && s.logged ctx && !spadRoom ctx (s.core r.core) rp w then (s, o, .halted true)
      else
        let (s, busy) := if egr = 0 then (s, false) else s.peerGate ctx (some r) (heldClass egr)
        if busy || (s.hasMarks && s.locked (some (r, o.id)) [(x.pa, w)]) then (s, o, .wait) else
        let s := s.countAccess ctx (some r.core) a w x.leaf
        let opnd := readBytes (o.source (s.core r.core).spad) sp ow
        let (old, s) :=
          if egr = 0 then
            let old := s.memRead (leafKey x.leaf) x.pa w
            (old, s.ctxWrite ctx (leafKey x.leaf) x.pa (atomNew op old opnd))
          else
            let p := s.drawBytes w
            (p.1, p.2.toPeer ctx (heldClass egr) ow (.atomic (s.pageDest x.pa x.leaf) (x.pa % 2 ^ 40) op opnd))
        let s := if ret then s.dSpadWrite r rp old else s
        State.atomLoop r ret va c op fuel s { o with moved := o.moved + 1 }

/-- An attempt of a memory atomic (R329): the checks, before an element has acted, then the elements that are left. -/
def State.atomRun (s : State) (r : SRef) (o : Op) (ret : Bool) (va c : W64) (op : BitVec 4) : State × Op × DEnd :=
  let n := atomNum c
  let (w, ow) := atomWidths op
  let sa := (fld c 0 25).toNat
  let ra := (fld c 25 25).toNat
  if sa % ow ≠ 0 ∨ va.toNat % w ≠ 0 ∨ !inSpad sa (n * ow) ∨ (ret ∧ (ra % w ≠ 0 ∨ !inSpad ra (n * w))) then (s, o, .done 12)
  else if !o.begun && s.peerBad r [(va.toNat, n * w)] then (s, o, .done 12)
  else if !o.begun && !s.boundsOk (s.stream r).owner va.toNat (n * w) true true then (s, o, .done 13)
  else State.atomLoop r ret va c op (n - o.moved) s o

/-! ### Ends of an attempt -/

/-- The fault record of a D operation (R239). -/
def opFault (st : Stream) (r : SRef) (o : Op) (va cause level : Nat) (write : Bool) : FaultRec :=
  let src := match o.body with | .atom .. => 2 | b => if b.isStreamCopy then 1 else 0
  { n := 0, ctx := st.owner, va := BitVec.ofNat 64 va, core := r.core, strm := r.strm, src, cause, level, write, tok := o.tok
    who := .op r o.id }

/-- A D operation is suspended at a page (R239). -/
def State.suspend (s : State) (r : SRef) (o : Op) (va cause level : Nat) (write : Bool) : State :=
  (s.setDOp r { o with fault := some s.nextFault }).addFault (opFault (s.stream r) r o va cause level write)

/-- A D operation stops for want of room (R300); a core's log counts as full here, a memory log or the egress buffer by `State.noRoom`. -/
def State.haltOp (s : State) (r : SRef) (o : Op) (core : Bool) : State :=
  let ctx := (s.stream r).owner
  let s := s.setDOp r { o with halted := true }
  if core then s.coreLogFull ctx r.core else s

/-- An attempt of a copy command or an atomic. -/
def State.dAttempt (s : State) (r : SRef) (o : Op) : State × Op × DEnd :=
  match o.body with
  | .cpy k d0 d1 _ ord => s.copyRun r o k d0 d1 ord
  | .atom ret va c op => s.atomRun r o ret va c op
  | _ => (s, o, .done 0)

/-! ### Accesses of the front end, the scheduler and the image loads (R254, R259, R262) -/

/-- How an access through a context's tables ends; `room` waits for room in a full log or buffer (R300), for released writes to be sent (R213), or
for a write that a fence orders before what would be read (R188). -/
inductive AccEnd where
  | ok
  | bounds
  | fault (va cause level : Nat)
  | rejected
  | room
  deriving DecidableEq, Repr, Inhabited

/-- The pages of a read, from where it stands; `got` holds the bytes read so far. -/
def State.readPages (ctx : Nat) : Nat → State → Nat → Nat → List Byte → State × List Byte × AccEnd
  | 0, s, _, _, got => (s, got, .ok)
  | fuel + 1, s, va, n, got =>
    if n = 0 then (s, got, .ok)
    else match s.translate ctx none va true false with
      | (s, .error (c, l)) => (s, got, .fault va c l)
      | (s, .ok x) =>
        let m := min n x.left
        let egr := leafEgr x.leaf
        let entry := x.pa / 2 ^ 40 % 256
        if s.marked none (fun scope _ => decide (4 ≤ scope)) [(x.pa, m)] || (leafOrd x.leaf == 0 && s.relOpen (fun _ => true) [(x.pa, m)]) then
          (s, got, .room)
        else if egr = 0 then State.readPages ctx fuel s (va + m) (n - m) (got ++ s.memRead (leafKey x.leaf) x.pa m)
        else if !s.peerOk entry egr then (s, got, .rejected)
        else
          let (bs, s) := s.drawBytes m
          State.readPages ctx fuel (s.send (.read (s.pageDest x.pa x.leaf) (x.pa % 2 ^ 40) m)) (va + m) (n - m) (got ++ bs)

/-- A read of `n` bytes at `va` for a context, continued after the bytes in `got` (R240). The bounds check goes with the first translation (R230);
an access that has moved bytes goes on without one. -/
def State.vaRead (s : State) (ctx va n : Nat) (got : List Byte) : State × List Byte × AccEnd :=
  if n ≤ got.length then (s, got, .ok)
  else if got.isEmpty && !s.boundsOk ctx va n true false then (s, got, .bounds)
  else State.readPages ctx (n / 4096 + 2) s (va + got.length) (n - got.length) got

/-- The pages of a write, from where it stands; the number of bytes written. -/
def State.writePages (ctx : Nat) : Nat → State → Nat → List Byte → Nat → State × Nat × AccEnd
  | 0, s, _, _, k => (s, k, .ok)
  | fuel + 1, s, va, bs, k =>
    if bs.isEmpty then (s, k, .ok)
    else match s.translate ctx none va false true with
      | (s, .error (c, l)) => (s, k, .fault va c l)
      | (s, .ok x) =>
        let m := min bs.length (if s.logged ctx then min x.left (64 - x.pa % 64) else x.left)
        let egr := leafEgr x.leaf
        let entry := x.pa / 2 ^ 40 % 256
        if egr != 0 && !s.peerOk entry egr then (s, k, .rejected)
        else if (s.logged ctx && egr == 0 && decide (s.logRoom ctx < (s.newLines ctx x.pa m).length)) ||
            (s.protected ctx && heldClass egr && decide (s.egressRoom < m)) then
          (s.noRoom ctx egr, k, .room)
        else
          let (s, busy) := if egr = 0 then (s, false) else s.peerGate ctx none (heldClass egr)
          if busy || (s.hasMarks && s.locked none [(x.pa, m)]) then (s, k, .room) else
          let s := if egr = 0 then s.ctxWrite ctx (leafKey x.leaf) x.pa (bs.take m)
            else s.toPeer ctx (heldClass egr) m (.write (s.pageDest x.pa x.leaf) (x.pa % 2 ^ 40) (bs.take m))
          State.writePages ctx fuel s (va + m) (bs.drop m) (k + m)

/-- A write of bytes at `va` for a context, continued after the first `k` bytes (R240). -/
def State.vaWrite (s : State) (ctx va : Nat) (bs : List Byte) (k : Nat) : State × Nat × AccEnd :=
  if bs.length ≤ k then (s, k, .ok)
  else if k == 0 && !s.boundsOk ctx va bs.length false true then (s, k, .bounds)
  else State.writePages ctx (bs.length / 64 + 3) s (va + k) (bs.drop k) k

/-- The fault record of an access that no operation of a core makes (log 15). -/
def ioFault (ctx va cause level : Nat) (write : Bool) (core : Nat) (strm : Strm) (src : Nat) (who : FaultWho) : FaultRec :=
  { n := 0, ctx, va := BitVec.ofNat 64 va, core, strm, src, cause, level, write, who }

end Sys2Proof.Machine
end

