-- ==== Sys2Proof/Machine/Flags.lean ====
section
/-! DEFINITION. Flag computations: the conditions of CMP and VCMP, guard logic, A-slot results (R325 to R328, R336
to R344, R353, R360, R363, R368, R372, R375, R378, R401). -/
namespace Sys2Proof.Machine

/-- A condition of CMP on the low `w` bits of two values (R337). -/
def cmpHolds {w : Nat} (cc : Nat) (x y : BitVec w) : Bool :=
  match cc with
  | 0 => x == y
  | 1 => x != y
  | 2 => x.slt y
  | 3 => !x.slt y
  | 4 => x.ult y
  | 5 => !x.ult y
  | _ => false

/-- CMP with its width (R337). -/
def cmp64 (cc : BitVec 3) (w32 : Bool) (x y : W64) : Bool :=
  if w32 then cmpHolds cc.toNat (fld x 0 32) (fld y 0 32) else cmpHolds cc.toNat x y

/-- One lane of VCMP (R386). -/
def vcmpLane (cc vt : BitVec 3) (x y : W32) : Bool :=
  if vt = 2 then f32Cmp cc.toNat x y
  else if vt = 1 ∧ cc = 2 then x.ult y
  else if vt = 1 ∧ cc = 3 then !x.ult y
  else cmpHolds cc.toNat x y

/-- The final slice and sign extension of R325. -/
def extend (w32 : Bool) (r : Int) : W64 := if w32 then (wrap 32 r).signExtend 64 else wrap 64 r

/-- An operand of R325, read at the form's width, signed when SG is set. -/
def operand (w32 sg : Bool) (x : W64) : Int :=
  if w32 then (if sg then (fld x 0 32).toInt else (fld x 0 32).toNat)
  else (if sg then x.toInt else x.toNat)

/-- The form's width in bits. -/
def formWidth (w32 : Bool) : Nat := if w32 then 32 else 64

/-- A register form of the A slot (R325): Op on the operands as integers, sliced and extended. -/
def aluOp (op : Int → Int → Int) (w32 sg : Bool) (x y : W64) : W64 :=
  extend w32 (op (operand w32 sg x) (operand w32 sg y))

/-- The quotient of DIV (R341); `w` is the width. -/
def divOp (w : Nat) (sg : Bool) (x y : Int) : Int :=
  if y = 0 then 2 ^ w - 1 else if sg then x.tdiv y else x / y

/-- The remainder of REM (R372). The most negative value by −1 gives 0. -/
def remOp (sg : Bool) (x y : Int) : Int :=
  if y = 0 then x else if sg then x.tmod y else x % y

/-- The shift count of SHL, SHR and SRA (R375). -/
def shiftCount (w32 : Bool) (y : W64) : Nat := y.toNat % formWidth w32

/-- SHL of R375. -/
def shlOp (w32 : Bool) (x y : W64) : W64 := extend w32 (operand w32 false x * 2 ^ shiftCount w32 y)

/-- SHR of R375. -/
def shrOp (w32 : Bool) (x y : W64) : W64 := extend w32 (operand w32 false x / 2 ^ shiftCount w32 y)

/-- SRA of R375. -/
def sraOp (w32 : Bool) (x y : W64) : W64 := extend w32 (operand w32 true x / 2 ^ shiftCount w32 y)

/-- A bitwise form under R325: `.W32` copies bit 31 upward. -/
def bitOp (op : W64 → W64 → W64) (w32 : Bool) (x y : W64) : W64 :=
  if w32 then (fld (op x y) 0 32).signExtend 64 else op x y

/-- The number of zero bits above the highest set bit of the low `n` bits. -/
def clzBits : Nat → Nat → Nat
  | 0, _ => 0
  | n + 1, x => if x / 2 ^ n % 2 = 1 then 0 else 1 + clzBits n x

/-- CLZ of R336. -/
def clzOp (w32 : Bool) (x : W64) : W64 := BitVec.ofNat 64 (clzBits (formWidth w32) x.toNat)

/-- The number of 1 bits among the low `n` bits. -/
def popBits : Nat → Nat → Nat
  | 0, _ => 0
  | n + 1, x => x / 2 ^ n % 2 + popBits n x

/-- POPC of R368. -/
def popOp (w32 : Bool) (x : W64) : W64 := BitVec.ofNat 64 (popBits (formWidth w32) x.toNat)

end Sys2Proof.Machine
end

