-- ==== Sys2Proof/WellFormed.lean ====
section
/-! DEFINITION. The checks of R111 that a decoded slot or bundle must pass: marks (subcode 4), ranges (5),
commons ports (6), the literal (7), SVC (8) and write conflicts (9). A term that passes them all is
well-formed. -/
namespace Sys2Proof

/-- R99: a commons operand carries no last-read mark. -/
def Src.markOk (s : Src) : Bool := !(s.mark && flag s.op 7)

/-- R99: an operand that is no commons register exists in file `f`. -/
def Src.rangeOk (f : RFile) (s : Src) : Bool := flag s.op 7 || decide ((fld s.op 0 7).toNat < f.size)

/-- R103: BASE is a commons operand or 0x00. -/
def baseOk (b : BitVec 8) : Bool := b == 0 || flag b 7

/-- R99: a V field is below 640. -/
def vOk (r : BitVec 10) : Bool := decide (r.toNat < 640)

/-- R388: the formats that VCVT accepts. -/
def cvtOk (f : BitVec 4) : Bool := decide (f.toNat < 8) && f != 1

/-- R132 and R150: the field codes that FMT accepts. -/
def fmtCodesOk (v : BitVec 16) : Bool :=
  decide ((fld v 0 4).toNat ≤ 5) && decide ((fld v 4 4).toNat ≤ 5) &&
  decide ((fld v 8 4).toNat ≤ 7) && fld v 8 4 != 1 &&
  (fld v 12 4 == 0 || fld v 12 4 == 2 || fld v 12 4 == 3 || fld v 12 4 == 5)

/-- R243, R244: a destination port of XMV or XMVI. -/
def portOk (p : BitVec 5) : Bool :=
  match (fld p 3 2).toNat, (fld p 0 3).toNat with
  | _, 7 => true
  | 0, n | 1, n => decide (n ≤ 3)
  | 2, n => decide (n ≤ 4)
  | _, n => decide (n ≤ 2)

/-- R244: the result ports PACK:0 and SUM:0. -/
def resultPort (p : BitVec 5) : Bool := p == 8 || p == 24

/-- R190, R206, R218: an even d register no greater than 30. -/
def dEven (d : BitVec 5) : Bool := !flag d 0

/-- R108: the special registers. -/
def sregOk (s : BitVec 12) : Bool := decide (s.toNat ≤ 0x1B) || (decide (0x40 ≤ s.toNat) && decide (s.toNat ≤ 0xC1))

/-- R108: the special registers that MTS may write: DOM and SLACK. -/
def sregRw (s : BitVec 12) : Bool := s == 0x005 || s == 0x008

/-- R101: the index of an XFR operand exists in its file; a commons source has its port above the index. -/
def axOk (code : BitVec 4) (i : BitVec 10) (source : Bool) : Bool :=
  match axFile code with
  | none => false
  | some .c => if source then decide (i.toNat < 128) else decide (i.toNat < 32)
  | some f => decide (i.toNat < f.size)

/-- R101: the element field of XFR. -/
def axElOk (df sf : BitVec 4) (el : BitVec 7) : Bool :=
  let isEl (c : BitVec 4) := c == 6 || c == 7
  (el == 0 || isEl df || isEl sf) && (decide (el.toNat ≤ 63) || !(df == 6 || sf == 6))

/-- The forbidden marks and reserved immediate bits of a slot (subcode 4): R99 commons marks; R343, R362, R371
and R176 reserved bits of an immediate VALUE. -/
def Instr.markOk (i : Instr) : Bool :=
  (i.srcs.all fun p => p.2.markOk) &&
  match i with
  | .fmt _ (.imm v) => fld v 16 16 == 0
  | .opp _ (.imm v) => fld v 3 29 == 0
  | .rcm _ (.imm v) => fld v 10 22 == 0
  | .phase _ (.imm v) => fld v 25 6 == 0
  | .xfr _ _ _ sf _ l _ => !(l && sf == 8)
  | _ => true

/-- The variant codes that a form accepts (R106, R384, R386, R389, R393). -/
def Instr.variantOk : Instr → Bool
  | .cmp _ _ _ _ cc _ => decide (cc.toNat ≤ 5)
  | .ld _ _ _ sz sx _ => !(sx && sz == 3)
  | .vadd _ _ _ _ t | .vsub _ _ _ _ t | .vmul _ _ _ _ t | .vfma _ _ _ _ t | .vclamp _ _ _ _ t
  | .vmax _ _ _ _ t | .vmin _ _ _ _ t => decide (t.toNat ≤ 2)
  | .vand _ _ _ _ t | .vor _ _ _ _ t | .vxor _ _ _ _ t | .vperm _ _ _ _ t | .vmov _ _ _ t => t == 0
  | .vabs _ _ _ t => t == 0 || t == 2
  | .vshl _ _ _ _ t | .vshr _ _ _ _ t => decide (t.toNat ≤ 1)
  | .vexp2 _ _ _ t | .vrcp _ _ _ t | .vrsq _ _ _ t => t == 2
  | .vcmp _ _ _ _ cc t => decide (t.toNat ≤ 2) && decide (cc.toNat ≤ 5) && !(decide (4 ≤ cc.toNat) && t == 2)
  | .vred _ _ _ op t | .vscan _ _ _ op t => decide (op.toNat ≤ 2) && decide (t.toNat ≤ 2)
  | .vcvt _ _ _ f t => cvtOk f && cvtOk t
  | .aadd _ _ _ _ _ t | .aswap _ _ _ _ _ t | .acas _ _ _ _ _ t => decide (t.toNat ≤ 1)
  | .aaddf _ _ _ _ _ t => decide (t.toNat ≤ 2)
  | .mmas _ _ _ _ sc => sc != 0
  | .atomm _ _ op => decide (op.toNat ≤ 9)
  | .atomr _ _ op => decide (op.toNat ≤ 11)
  | .cred _ _ op => decide (op.toNat ≤ 1)
  | .cpy _ _ _ o | .cpyg _ _ _ o | .cpys _ _ _ o | .cpyx _ _ _ o => o != 3
  | .fence _ sc _ => decide (sc.toNat ≤ 5)
  | _ => true

/-- The range checks of a slot (subcode 5), apart from the placement of EXIT, which needs the bundle's size. -/
def Instr.rangeOk (i : Instr) : Bool :=
  (i.srcs.all fun p => p.2.rangeOk p.1) && (i.vsrcs.all fun s => vOk s.r) && (i.vdest.all vOk) && i.variantOk &&
  match i with
  | .fmt _ (.imm v) => fmtCodesOk (v.setWidth 16)
  | .mfs _ _ s => sregOk s
  | .mts _ _ s => sregRw s
  | .addi _ _ _ lt imm => !lt || imm == 0
  | .movi _ _ lt imm => !lt || imm == 0
  | .vbcast _ _ (.imm lt v) => !lt || v == 0
  | .vbcast _ _ (.com c) => flag c 7
  | .xmvi _ p lt imm => (!lt || imm == 0) && portOk p
  | .xmv _ p (.port s) => portOk p && resultPort s
  | .xmv _ p (.reg x) => portOk p && decide (x.toNat < 16)
  | .xget _ p _ => resultPort p
  | .xfr _ df di sf si _ el => axOk df di false && axOk sf si true && axElOk df sf el
  | .acas _ v b _ vi _ => vOk v && vOk vi && baseOk b && !flag v 0
  | .aadd _ v b _ vi _ | .aaddf _ v b _ vi _ | .aswap _ v b _ vi _ => vOk v && vOk vi && baseOk b
  | .tagi _ v _ => vOk v
  | .tagl _ v w _ | .tagw _ v w _ => vOk v && vOk w
  | .vld _ v b .. | .vlde _ v b .. | .vst _ v b .. => vOk v && baseOk b
  | .vldx _ v b _ vi _ => vOk v && vOk vi && baseOk b
  | .vstx _ v b _ vi _ _ => vOk v && vOk vi && baseOk b
  | .atomm _ d _ | .atomr _ d _ | .cred _ d _ | .cpy _ d .. | .cpyg _ d .. | .cpys _ d .. | .cpyx _ d .. => dEven d
  | _ => true

/-- R100: in a bundle of size `size`, EXIT lies beyond the next address. -/
def Instr.exitOk (size : Nat) : Instr → Bool
  | .loop _ _ ex => decide (size < 2 * ex.toNat)
  | _ => true

/-- A well-formed slot: every check of subcodes 4 and 5 that depends on the slot alone. -/
def Instr.wf (i : Instr) : Bool := i.slot.isSome && i.markOk && i.rangeOk

/-- R64: no port 0b11, and no port named with two indices. -/
def commonsOk (l : List (Nat × Nat)) : Bool :=
  l.all fun p => p.1 != 3 && l.all fun q => p.1 != q.1 || p.2 == q.2

/-- R73: at most one taker of the literal, and a taker only beside LIT. -/
def litOk (l : List Instr) : Bool :=
  let takers := (l.filter Instr.takesLit).length
  let hasLit := l.any fun i => match i with | .lit _ => true | _ => false
  takers == 0 || (takers == 1 && hasLit)

/-- R87: SVC only in a bundle with CKPT. -/
def svcOk (f : Flags) (l : List Instr) : Bool :=
  f.ckpt || !(l.any fun i => match i with | .svc .. => true | _ => false)

/-- R111, subcode 9: no two slots write one register. -/
def writesOk : List Instr → Bool
  | [] => true
  | i :: t => (t.all fun j => !clash i.writes j.writes) && writesOk t

/-- The slots stand in ascending PRES order, each at most once. -/
def slotsOrdered (l : List Instr) : Bool :=
  let ord (s : Slot) : Nat := match s with | .K => 0 | .A => 1 | .V => 2 | .L => 3 | .M => 4 | .P => 5 | .X => 6 | .D => 7
  let rec go (lo : Nat) : List Instr → Bool
    | [] => true
    | i :: t => match i.slot with
      | some s => decide (lo ≤ ord s) && go (ord s + 1) t
      | none => false
  go 0 l

/-- A well-formed bundle of size `size` (R111, subcodes 2 to 9). -/
def Bundle.wf (size : Nat) (b : Bundle) : Bool :=
  slotsOrdered b.slots && !(b.slots.isEmpty && b.flags.ew == 31) && (b.slots.all Instr.markOk) && (b.slots.all Instr.rangeOk) &&
  (b.slots.all (Instr.exitOk size)) && commonsOk ((b.slots.map Instr.commons).flatten) && litOk b.slots &&
  svcOk b.flags b.slots && writesOk b.slots

end Sys2Proof
end

