-- ==== Sys2Proof/Machine/Issue.lean ====
section
/-! DEFINITION. What stands between a slot and its effect: the waits before issue (R67, R85, R164, R170, R174, R175,
R311, R395, R397), the traps raised at issue (R112, R286), the issue of an engine operation (R72, R74, R164, R166). -/
namespace Sys2Proof.Machine

/-- Whether a bundle may go on: it issues, it waits, the stream first commits an implicit checkpoint at the
boundary before it, or it freezes there, since the core's log has no room for what a slot writes at issue (R300). -/
inductive Prep where
  | go
  | stall
  | room
  | ckpt
  deriving DecidableEq, Repr, Inhabited

/-- A checkpoint goes before a freeze, a freeze before a wait, and a wait before issue. -/
def Prep.join : Prep → Prep → Prep
  | .ckpt, _ | _, .ckpt => .ckpt
  | .room, _ | _, .room => .room
  | .stall, _ | _, .stall => .stall
  | .go, .go => .go

/-- Whether an operation of vP reads or writes q register `n` (R160, R397). -/
def opTouchesQ (n : Nat) (o : Op) : Bool :=
  match o.body with
  | .pscan q .. => q == n
  | .pdot _ q d => decide (q ≤ n) && decide (n ≤ q + (fld d 52 4).toNat)
  | _ => false

/-- The tokens whose generations a bundle waits for at WAIT or an L-slot consume field (R164), in the order in which
an error is reported (R395). -/
def waitTokens : Instr → List (BitVec 6)
  | .wait _ a b c d => [a, b, c, d].filter (· != 0)
  | i => if i.lct = 0 then [] else [i.lct]

/-- The consumed tokens of an engine slot. -/
def engTokens (h : Eh) : List (BitVec 6) := [h.ct0, h.ct1, h.ct2].filter (· != 0)

/-- The wait of a token field (R85, R164, R395). -/
def tokenPrep (st : Stream) (regs : Regs) (t : BitVec 6) : Prep :=
  let id := regs.gen t
  if (st.gen id).set then .go else if heldGen st 40 id then .ckpt else .stall

/-- The waits of an engine operation (R85, R170). -/
def engPrep (st : Stream) (regs : Regs) (k : Slot) (h : Eh) : Prep :=
  let held := (engTokens h).any fun t => !(st.gen (regs.gen t)).set && heldGen st 40 (regs.gen t)
  match k with
  | .M => if held then .ckpt else if st.mq.length ≥ 8 then .stall else .go
  | .P => if held then .ckpt else if st.pq.length ≥ 8 then .stall else .go
  | .X => if held then .ckpt else if st.xq.length ≥ 16 then .stall else .go
  | _ => if st.dheld.length ≥ 32 then .ckpt else if st.dheld.length + (st.dq.filter fun o => o.stage != .finished).length ≥ 32 then .stall else .go

/-- Whether a pending XGET has yet to write x register `n` (R67, R398). -/
def xPending (st : Stream) (n : Nat) : Bool :=
  st.xq.any fun o => match o.body with | .xget _ x => x.toNat == n | _ => false

/-- The oldest stream copy of the stream that no streamed operand has taken is marked as taken by operation `op`
(R226); 0 when none is left. -/
def takeCopy (op : Nat) : List Op → Nat × List Op
  | [] => (0, [])
  | o :: t =>
    if o.body.isStreamCopy && o.inst == none then (o.id, { o with inst := some op } :: t)
    else
      let (n, t) := takeCopy op t
      (n, o :: t)

/-- The streamed operands of an M operation take their copies, A before B (R226). -/
def takeFeeds (st : Stream) (b : OpBody) (op : Nat) : List Nat × Stream :=
  match b with
  | .mma _ da db _ _ _ _ =>
    let (fa, q) := if flag da 53 then (fun p => ([p.1], p.2)) (takeCopy op st.dq) else ([], st.dq)
    let (fb, q) := if flag db 53 then (fun p => ([p.1], p.2)) (takeCopy op q) else ([], q)
    (fa ++ fb, { st with dq := q })
  | _ => ([], st)

/-- An M operation would take a stream copy that waits for a held D operation: the commit comes first, so that step 1 of R81 never waits on
an operation that waits on the commit (R85, R185, log 26). -/
def feedHeld (s : State) (i : Instr) : Bool :=
  let st := s.me
  !st.dheld.isEmpty && (takeFeeds st (bodyOf s none i) 0).1.any fun n => st.dq.any fun c => c.id == n && s.copyHeld s.cur c

/-- Whether what an ACAS or ASWAP of a context of logged writes writes has room in the core's log (R175, R300). -/
def swapRoom (s : State) (i : Instr) : Bool :=
  let c := s.core s.cur.core
  !s.logged s.me.owner || (spadFail s i).isSome ||
    decide (((slotAccesses s i).foldl (fun u a => logLines s.me.owner u c.spad a.1 a.2.1) c.undo).length ≤ 4096)

/-- The stream stands at a checkpoint, and nothing that it has issued is still to reach one: an operation of the `%ckpt` bundle itself retires,
and writes, after that bundle's commit (R81 step 1), so that a checkpoint before the next bundle is one more commit (R167, R175, R176). -/
def Stream.atCkpt (st : Stream) : Bool :=
  st.ckptAt.isSome && st.mpx.isEmpty && st.dheld.isEmpty && st.withheld.isEmpty && st.atoms.isEmpty && st.beforeV.isEmpty && st.beforeQ.isEmpty &&
    st.tileImgs.isEmpty && st.statImgs.isEmpty

/-- Whether a slot acts on the committed scratchpad as it issues (R175). -/
def Instr.swaps : Instr → Bool
  | .acas .. | .aswap .. => true
  | _ => false

/-- The waits of one slot whose guard holds; `st` is the issuing stream as it stands. -/
def prepOn (s : State) (i : Instr) : Prep :=
  let st := s.me
  let regs := s.src.regs
  let toks := (waitTokens i).map (tokenPrep st regs) |>.foldl Prep.join .go
  let eng := match i.slot, i.eh with
    | some k, some h => engPrep st regs k h
    | _, _ => .go
  let atom := if commitsFirst s i then Prep.ckpt else .go
  let own := match i with
    | .aadd .. | .aaddf .. => if st.atoms.length ≥ 16 then Prep.ckpt else .go
    | .mma .. | .mmas .. => if feedHeld s i then .ckpt else .go
    | .acas .. | .aswap .. => if !st.atCkpt then .ckpt else if swapRoom s i then .go else .room
    | .phase .. => if st.atCkpt then .go else .ckpt
    | .opp .. => if (s.core s.cur.core).power.trans.isSome then .stall else .go
    | .stat _ _ z =>
      let t := tileBase s.cur.strm st.zt + z.toNat
      let drains := st.mq.any fun o => match o.body with | .mdrain y .. => y == t | _ => false
      let late := ((s.core s.cur.core).tiles.get t {}).late.any fun p => decide ((s.core s.cur.core).cycle.toNat < p.1)
      if st.det && (drains || late) then .stall else .go
    | .xfr _ df di sf si _ _ =>
      let hit (f : BitVec 4) (n : BitVec 10) : Bool := f == 6 && st.pq.any (opTouchesQ n.toNat)
      if hit df di || hit sf si then .stall else .go
    | _ => .go
  (toks.join eng).join (atom.join own)

/-- The waits of one slot: a guarded-off slot waits only for its registers (R67, R72). A register interlocks with a
pending XGET; a vector register in a gated cluster waits for the cluster to wake (R65). -/
def Instr.prep (s : State) (i : Instr) : Prep :=
  let st := s.me
  let x := (i.reads ++ i.writes).any fun r => r.file == .x && xPending st r.ix
  let on := guardHolds s.src.regs i.guard
  let gated := on && i.vregs.any fun n => flag s.src.sys.gatedClusters (n / 64) && flag st.vcl (n / 64)
  let base : Prep := if x || gated then .stall else .go
  if on then base.join (prepOn s i) else base

/-- The log room of a bundle that holds an ASWAP or ACAS: all that its slots write has it, since the commit behind the bundle does not wait
(R175, R300, log 35). -/
def bundleRoom (s : State) (l : List Instr) : Bool :=
  let on := l.filter fun i => guardHolds s.src.regs i.guard
  let c := s.core s.cur.core
  let ws := (on.flatMap (setAccesses s)).filter fun a => a.2.2
  !(on.any Instr.swaps && s.logged s.me.owner) || (on.any fun i => (spadFail s i).isSome) ||
    decide ((ws.foldl (fun u a => logLines s.me.owner u c.spad a.1 a.2.1) c.undo).length ≤ 4096)

/-- The waits of a bundle: every slot's (R67, R120), and the room of `bundleRoom`. -/
def prepAll (s : State) (l : List Instr) : Prep :=
  ((l.map (Instr.prep s)).foldl Prep.join .go).join (if bundleRoom s l then .go else .room)

/-! ### Traps at issue -/

/-- The lowest cluster that a mask names and the allotment lacks (R371, R286). -/
def badCluster (mask vcl : BitVec 10) : Option Nat :=
  (List.range 10).find? fun n => flag mask n && !flag vcl n

/-- The determinism trap (R180, R286): slot number, opcode, SREG. -/
def detTrap (s : State) (i : Instr) : List (Nat × BitVec 29) :=
  if !s.src.det then []
  else
    let d (slot opc sr : Nat) : List (Nat × BitVec 29) := [(3, BitVec.ofNat 29 (slot * 2 ^ 19 + opc * 2 ^ 12 + sr))]
    match i with
    | .mfs _ _ sr =>
      let n := sr.toNat
      if n ≤ 1 ∨ n = 0xC0 ∨ n = 0xC1 ∨ (0x40 ≤ n ∧ n ≤ 0xBF) then d 0 0x0A n else []
    | .acas .. => d 3 3 0
    | .aswap .. => d 3 4 0
    | .atomr .. => d 7 2 0
    | _ => []

/-- The register-allotment fault (R65, R130, R286). -/
def allotTrap (s : State) (i : Instr) : List (Nat × BitVec 29) :=
  let st := s.src
  match i.vregs.find? (fun n => !flag st.vcl (n / 64)), i.tile with
  | some n, _ => [(4, BitVec.ofNat 29 (7 * 2 ^ 10 + n))]
  | none, some z => if st.zt ≤ z then [(4, BitVec.ofNat 29 (9 * 2 ^ 10 + z))] else []
  | none, none =>
    match i with
    | .rcm _ v =>
      match badCluster (fld (kVal s v) 0 10) st.vcl with
      | some n => [(4, BitVec.ofNat 29 (7 * 2 ^ 10 + 64 * n))]
      | none => []
    | _ => []

/-- Register forms whose value is out of range: subcode 5 at issue (R112, R176, R343, R357, R362, R371). -/
def valueTrap (s : State) (i : Instr) : List (Nat × BitVec 29) :=
  let bad : Bool := match i with
    | .fmt _ (.reg r) => let v := s.rd .k r; fld v 16 48 != 0 || !fmtCodesOk (fld v 0 16)
    | .opp _ (.reg r) => fld (s.rd .k r) 3 61 != 0
    | .rcm _ (.reg r) => fld (s.rd .k r) 10 54 != 0
    | .phase _ (.reg r) => fld (s.rd .k r) 25 6 != 0
    | .mts _ r sr => sr == 0x005 && (fld (s.rd .k r) 3 61 != 0 || decide (6 ≤ (fld (s.rd .k r) 0 3).toNat))
    | _ => false
  if bad then [(2, 5)] else []

/-- The loop-stack fault (R76, R78, R350). -/
def loopTrap (s : State) (i : Instr) : List (Nat × BitVec 29) :=
  let ls := s.src.regs.loops
  match i with
  | .leave _ => if ls.isEmpty then [(5, 0)] else []
  | .loop _ n ex =>
    if tripCount s n = 0 then []
    else if ls.length ≥ 6 then [(5, 0)]
    else match ls with
      | [] => []
      | top :: _ =>
        let exit := s.src.regs.pc + (2 * ex.setWidth 48)
        if s.npc < top.start ∨ top.exit < exit then [(5, 0)] else []
  | _ => []

/-- The scratchpad-address fault (R321) and the set violation of a slot access (R178). -/
def spadTrap (s : State) (i : Instr) : List (Nat × BitVec 29) :=
  match spadFail s i with
  | some a => [(6, wrap 29 a)]
  | none =>
    match s.src.regs.phase.sets with
    | none => []
    | some sets => if (setAccesses s i).all fun r => inSets sets 0 r.1 r.2.1 r.2.2 then [] else [(9, 0)]

/-- The engine-error trap of WAIT and the consume fields (R165, R395). -/
def waitTrap (s : State) (i : Instr) : List (Nat × BitVec 29) :=
  let st := s.me
  match (waitTokens i).find? (fun t => decide (2 ≤ (st.gen (s.src.regs.gen t)).status)) with
  | some t => [(7, BitVec.ofNat 29 (t.toNat * 2 ^ 8 + (st.gen (s.src.regs.gen t)).status))]
  | none => []

/-- Every trap that one slot raises at issue; a guarded-off slot raises none (R72). A slot that fails its allotment
makes no access. -/
def slotTraps (s : State) (i : Instr) : List (Nat × BitVec 29) :=
  if guardHolds s.src.regs i.guard then
    detTrap s i ++ allotTrap s i ++ valueTrap s i ++ loopTrap s i ++ waitTrap s i ++
      (if allotTrap s i = [] then spadTrap s i else [])
  else []

/-- The v and q registers that the slots whose guards hold write. -/
def wideWrites (s : State) (l : List Instr) : List RegId :=
  ((l.filter fun i => guardHolds s.src.regs i.guard).map Instr.writes).flatten.filter fun r => r.file == .v || r.file == .q

/-- The scratchpad ranges that the slots whose guards hold write into the withholding buffer. -/
def withheldWrites (s : State) (l : List Instr) : List (Nat × Nat × Bool) :=
  ((l.filter fun i => guardHolds s.src.regs i.guard && match i with | .st .. | .vst .. | .vstx .. => true | _ => false).map
    (slotAccesses s)).flatten

/-- The fatal context fault of R88: a before-image beyond 64 KiB, or a withholding line beyond 1024. A slot that raises a trap
writes nothing. -/
def fatalTrap (s : State) (l : List Instr) : List (Nat × BitVec 29) :=
  let st := s.me
  let l := l.filter fun i => (slotTraps s i).isEmpty
  let new := (wideWrites s l).map fun r => (r.file == .v, r.ix)
  let newV := ((new.filter (·.1)).map (·.2)).eraseDups.filter fun n => !st.beforeV.any fun p => p.1 == n
  let newQ := ((new.filter fun p => !p.1).map (·.2)).eraseDups.filter fun n => !st.beforeQ.any fun p => p.1 == n
  let size := 1024 * (st.beforeV.length + newV.length) + 512 * (st.beforeQ.length + newQ.length)
  let wh := (withheldWrites s l).foldl (fun w r => withhold w r.1 (List.replicate r.2.1 0)) st.withheld
  (if (newV ++ newQ) ≠ [] ∧ 65536 < size then [(13, 1)] else []) ++
    (if 1024 < lineCount wh then [(13, 2)] else [])

/-- The causes of a bundle with slots `l` (R287): those of its slots, and the fatal context fault. -/
def issueTraps (s : State) (l : List Instr) : List (Nat × BitVec 29) := (l.map (slotTraps s)).flatten ++ fatalTrap s l

/-- The place of a cause among those of one bundle: 13 before all others, then by code (R287). -/
def causeKey (cause : Nat) : Nat := if cause = 13 then 0 else cause

/-- The cause of one bundle that is reported, and of one code the first slot's (R286, R287). -/
def lowest : List (Nat × BitVec 29) → Option (Nat × BitVec 29)
  | [] => none
  | t :: rest => match lowest rest with
    | none => some t
    | some u => if causeKey t.1 ≤ causeKey u.1 then some t else some u

/-! ### Issue -/

/-- Ask for an implicit checkpoint at the boundary before the bundle at issue (R85, R174, R175, R176). -/
def State.askCkpt (s : State) : State :=
  s.updStream s.cur fun st => { st with ckpt := some { before := st.nextId } }

/-- The gang at issue, which stands at its checkpoint, freezes there until a recovery point has emptied the logs (R299, R300). -/
def State.freezeHere (s : State) : State :=
  (s.gang s.cur).foldl (fun s m => (s.coreLogFull (s.stream m).owner m.core).updStream m fun st =>
    { st with freezeReq := false, frozen := { st.frozen with recovery := true } }) s

/-- The waits of a slot as it runs: those of its bundle have been met, in every member of the gang, before the bundle's first slot ran, and
what another slot of the bundle has changed since makes it wait no more (R66, R91, R195); a slot that is stepped outside a bundle is a bundle
of its own. -/
def slotPrep (s : State) (i : Instr) : Prep := if s.frame.view.isSome then .go else Instr.prep s i

/-- A slot runs: its guard is evaluated (R71, R72); it waits, or raises its trap, or has its effect. `off` is what a
guarded-off slot still does. -/
def slotRun (i : Instr) (s : State) (eff off : State → State) : Host.Outcome State Fault Refusal :=
  if s.cur.core < numCores then
    match slotPrep s i with
    | .stall => .next s
    | .ckpt => .next s.askCkpt
    | .room => .next s.freezeHere
    | .go =>
      if guardHolds s.src.regs i.guard then
        match lowest (issueTraps s [i]) with
        | some t => .next (s.raise s.cur t.1 t.2 s.src.regs.pc)
        | none => .next (eff s)
      else .next (off s)
  else .fault .noSuchCore

/-- A slot of K, A, V or L: a guarded-off one changes nothing (R72). -/
def runSlot (i : Instr) (s : State) (eff : State → State) : Host.Outcome State Fault Refusal :=
  slotRun i s eff id

/-- The holds after a slot is present: its own HOLD bit decides (R74, R75). -/
def setHold (h : Holds) (k : Slot) (x : Option Hold) : Holds :=
  match k with
  | .M => { h with m := x }
  | .P => { h with p := x }
  | .X => { h with x := x }
  | _ => { h with d := x }

/-- Whether a D operation is withheld until a commit: all but TOKJ and stream copies (R85, R225, R382). -/
def withheldOp (b : OpBody) : Bool := b != .tokj && !b.isStreamCopy

/-- Put an operation into its queue (R170). -/
def enqueue (st : Stream) (k : Slot) (o : Op) : Stream :=
  match k with
  | .M => { st with mq := st.mq ++ [o] }
  | .P => { st with pq := st.pq ++ [o] }
  | .X => { st with xq := st.xq ++ [o] }
  | _ => if withheldOp o.body then { st with dheld := st.dheld ++ [o] } else { st with dq := st.dq ++ [o] }

/-- An engine slot whose guard holds issues: it names the generations it consumes, starts the generation it
produces, and joins its queue (R164, R166). -/
def issueOp (lit : Option W32) (k : Slot) (h : Eh) (i : Instr) (s : State) : State :=
  let ins := (engTokens h).map s.src.regs.gen
  let body := bodyOf s lit i
  s.updStream s.cur fun st =>
    let (out, st) := newGen st h.pt
    let (feeds, st) := takeFeeds st body st.nextId
    let o : Op := { feeds, id := st.nextId, bundle := st.bundleNo, pc := s.src.regs.pc, opc := engOpc i, body, tok := h.pt, out, ins }
    enqueue { st with nextId := st.nextId + 1 } k o

/-- A guarded-off engine slot: its token is set at issue with status 1, "suppressed" (R72, R164). -/
def suppressOp (h : Eh) (s : State) : State :=
  s.updStream s.cur fun st =>
    let (out, st) := newGen st h.pt
    setGen st out 1 0

/-- The hold that a present engine slot arms or ends (R74, R75). -/
def armHold (lit : Option W32) (k : Slot) (h : Eh) (i : Instr) (s : State) : State :=
  s.updRegs s.cur fun r => { r with holds := setHold r.holds k (if h.hold then some ⟨i, lit⟩ else none) }

/-- An engine slot (R72, R74, R98). -/
def engSlot (k : Slot) (h : Eh) (i : Instr) (s : State) : Host.Outcome State Fault Refusal :=
  slotRun i s (fun s => armHold s.frame.lit k h i (issueOp s.frame.lit k h i s))
    (fun s => armHold s.frame.lit k h i (suppressOp h s))

end Sys2Proof.Machine
end

