-- ==== Sys2Proof/Machine/Alu.lean ====
section
/-! DEFINITION. The A slot: integer arithmetic, guards, scratchpad loads and stores, and XFR (R325 to R328, R336,
R337, R341, R344, R347, R353, R359, R360, R363, R368, R372, R374 to R376, R378, R396, R401). -/
namespace Sys2Proof.Machine

/-- A result for a(ad), then the marks of its sources (R80, R325). -/
def State.result (s : State) (ad : BitVec 6) (v : W64) (marks : List Src) : State :=
  marks.foldl (fun s x => s.markSrc .a x) (s.wr .a ad.toNat v)

/-- A result for a guard, then the marks of its sources. -/
def State.guardResult (s : State) (gd : BitVec 4) (b : Bool) (marks : List Src) : State :=
  marks.foldl (fun s x => s.markSrc .a x) (s.updRegs s.cur (·.setGuard gd b))

/-- A guard source with its negation (R344, R374). -/
def State.rdGuard (s : State) (n : Bool) (g : BitVec 4) : Bool := s.src.regs.guard g != n

/-- ADD (R326). -/
def execAdd (g : Gd) (ad : BitVec 6) (s1 s2 : Src) (w : Bool) (s : State) : Host.Outcome State Fault Refusal :=
  runSlot (.add g ad s1 s2 w) s fun s => s.result ad (aluOp (· + ·) w false (s.rd .a s1) (s.rd .a s2)) [s1, s2]

/-- ADDI (R327). -/
def execAddi (g : Gd) (ad : BitVec 6) (s1 : Src) (lt : Bool) (imm : BitVec 20) (s : State) :
    Host.Outcome State Fault Refusal :=
  runSlot (.addi g ad s1 lt imm) s fun s => s.result ad (s.rd .a s1 + immOrLit s lt imm 64) [s1]

/-- AND (R328). -/
def execAnd (g : Gd) (ad : BitVec 6) (s1 s2 : Src) (w : Bool) (s : State) : Host.Outcome State Fault Refusal :=
  runSlot (.and g ad s1 s2 w) s fun s => s.result ad (bitOp (· &&& ·) w (s.rd .a s1) (s.rd .a s2)) [s1, s2]

/-- CLZ (R336). -/
def execClz (g : Gd) (ad : BitVec 6) (s1 : Src) (w : Bool) (s : State) : Host.Outcome State Fault Refusal :=
  runSlot (.clz g ad s1 w) s fun s => s.result ad (clzOp w (s.rd .a s1)) [s1]

/-- CMP (R337). -/
def execCmp (g : Gd) (gd : BitVec 4) (s1 s2 : Src) (cc : BitVec 3) (w : Bool) (s : State) :
    Host.Outcome State Fault Refusal :=
  runSlot (.cmp g gd s1 s2 cc w) s fun s => s.guardResult gd (cmp64 cc w (s.rd .a s1) (s.rd .a s2)) [s1, s2]

/-- DIV (R341). -/
def execDiv (g : Gd) (ad : BitVec 6) (s1 s2 : Src) (w sg : Bool) (s : State) : Host.Outcome State Fault Refusal :=
  runSlot (.div g ad s1 s2 w sg) s fun s =>
    s.result ad (aluOp (divOp (formWidth w) sg) w sg (s.rd .a s1) (s.rd .a s2)) [s1, s2]

/-- GAND (R344). -/
def execGand (g : Gd) (gd : BitVec 4) (n1 : Bool) (gs1 : BitVec 4) (n2 : Bool) (gs2 : BitVec 4) (s : State) :
    Host.Outcome State Fault Refusal :=
  runSlot (.gand g gd n1 gs1 n2 gs2) s fun s => s.guardResult gd (s.rdGuard n1 gs1 && s.rdGuard n2 gs2) []

/-- GNOT (R344). -/
def execGnot (g : Gd) (gd : BitVec 4) (n1 : Bool) (gs1 : BitVec 4) (s : State) : Host.Outcome State Fault Refusal :=
  runSlot (.gnot g gd n1 gs1) s fun s => s.guardResult gd (!s.rdGuard n1 gs1) []

/-- GOR (R344). -/
def execGor (g : Gd) (gd : BitVec 4) (n1 : Bool) (gs1 : BitVec 4) (n2 : Bool) (gs2 : BitVec 4) (s : State) :
    Host.Outcome State Fault Refusal :=
  runSlot (.gor g gd n1 gs1 n2 gs2) s fun s => s.guardResult gd (s.rdGuard n1 gs1 || s.rdGuard n2 gs2) []

/-- The value that LD writes (R347): the bytes, sign-extended under SX. -/
def loadValue (sz : BitVec 2) (sx : Bool) (bs : List Byte) : W64 :=
  let n := 8 * 2 ^ sz.toNat
  if sx then (BitVec.ofNat n (leNat bs)).signExtend 64 else BitVec.ofNat 64 (leNat bs)

/-- LD (R347). -/
def execLd (g : Gd) (ad : BitVec 6) (sb : Src) (sz : BitVec 2) (sx : Bool) (off : BitVec 18) (s : State) :
    Host.Outcome State Fault Refusal :=
  runSlot (.ld g ad sb sz sx off) s fun s =>
    s.result ad (loadValue sz sx (spadRead s.view s.cur.strm (ldAddr s sb off).toNat (2 ^ sz.toNat))) [sb]

/-- MAX (R353). -/
def execMax (g : Gd) (ad : BitVec 6) (s1 s2 : Src) (w sg : Bool) (s : State) : Host.Outcome State Fault Refusal :=
  runSlot (.max g ad s1 s2 w sg) s fun s => s.result ad (aluOp max w sg (s.rd .a s1) (s.rd .a s2)) [s1, s2]

/-- MIN (R353). -/
def execMin (g : Gd) (ad : BitVec 6) (s1 s2 : Src) (w sg : Bool) (s : State) : Host.Outcome State Fault Refusal :=
  runSlot (.min g ad s1 s2 w sg) s fun s => s.result ad (aluOp min w sg (s.rd .a s1) (s.rd .a s2)) [s1, s2]

/-- MOVI (R359). -/
def execMovi (g : Gd) (ad : BitVec 6) (lt : Bool) (imm : BitVec 29) (s : State) : Host.Outcome State Fault Refusal :=
  runSlot (.movi g ad lt imm) s fun s => s.result ad (immOrLit s lt imm 64) []

/-- MUL (R360). -/
def execMul (g : Gd) (ad : BitVec 6) (s1 s2 : Src) (w : Bool) (s : State) : Host.Outcome State Fault Refusal :=
  runSlot (.mul g ad s1 s2 w) s fun s => s.result ad (aluOp (· * ·) w false (s.rd .a s1) (s.rd .a s2)) [s1, s2]

/-- MULH (R360). -/
def execMulh (g : Gd) (ad : BitVec 6) (s1 s2 : Src) (w sg : Bool) (s : State) : Host.Outcome State Fault Refusal :=
  runSlot (.mulh g ad s1 s2 w sg) s fun s =>
    s.result ad (aluOp (fun x y => x * y / 2 ^ formWidth w) w sg (s.rd .a s1) (s.rd .a s2)) [s1, s2]

/-- OR (R363). -/
def execOr (g : Gd) (ad : BitVec 6) (s1 s2 : Src) (w : Bool) (s : State) : Host.Outcome State Fault Refusal :=
  runSlot (.or g ad s1 s2 w) s fun s => s.result ad (bitOp (· ||| ·) w (s.rd .a s1) (s.rd .a s2)) [s1, s2]

/-- POPC (R368). -/
def execPopc (g : Gd) (ad : BitVec 6) (s1 : Src) (w : Bool) (s : State) : Host.Outcome State Fault Refusal :=
  runSlot (.popc g ad s1 w) s fun s => s.result ad (popOp w (s.rd .a s1)) [s1]

/-- REM (R372). -/
def execRem (g : Gd) (ad : BitVec 6) (s1 s2 : Src) (w sg : Bool) (s : State) : Host.Outcome State Fault Refusal :=
  runSlot (.rem g ad s1 s2 w sg) s fun s => s.result ad (aluOp (remOp sg) w sg (s.rd .a s1) (s.rd .a s2)) [s1, s2]

/-- SEL (R374): both sources are read and marked, whichever is chosen. -/
def execSel (g : Gd) (ad : BitVec 6) (gn2 : Bool) (gs : BitVec 4) (s1 s2 : Src) (s : State) :
    Host.Outcome State Fault Refusal :=
  runSlot (.sel g ad gn2 gs s1 s2) s fun s =>
    s.result ad (if s.rdGuard gn2 gs then s.rd .a s1 else s.rd .a s2) [s1, s2]

/-- SHL (R375). -/
def execShl (g : Gd) (ad : BitVec 6) (s1 s2 : Src) (w : Bool) (s : State) : Host.Outcome State Fault Refusal :=
  runSlot (.shl g ad s1 s2 w) s fun s => s.result ad (shlOp w (s.rd .a s1) (s.rd .a s2)) [s1, s2]

/-- SHR (R375). -/
def execShr (g : Gd) (ad : BitVec 6) (s1 s2 : Src) (w : Bool) (s : State) : Host.Outcome State Fault Refusal :=
  runSlot (.shr g ad s1 s2 w) s fun s => s.result ad (shrOp w (s.rd .a s1) (s.rd .a s2)) [s1, s2]

/-- SRA (R375). -/
def execSra (g : Gd) (ad : BitVec 6) (s1 s2 : Src) (w : Bool) (s : State) : Host.Outcome State Fault Refusal :=
  runSlot (.sra g ad s1 s2 w) s fun s => s.result ad (sraOp w (s.rd .a s1) (s.rd .a s2)) [s1, s2]

/-- ST (R376). -/
def execSt (g : Gd) (sd sb : Src) (sz : BitVec 2) (off : W16) (s : State) : Host.Outcome State Fault Refusal :=
  runSlot (.st g sd sb sz off) s fun s =>
    let n := 2 ^ sz.toNat
    ((s.spadWrite (stAddr s sb off).toNat (leBytes n (s.rd .a sd).toNat)).markSrc .a sd).markSrc .a sb

/-- SUB (R378). -/
def execSub (g : Gd) (ad : BitVec 6) (s1 s2 : Src) (w : Bool) (s : State) : Host.Outcome State Fault Refusal :=
  runSlot (.sub g ad s1 s2 w) s fun s => s.result ad (aluOp (· - ·) w false (s.rd .a s1) (s.rd .a s2)) [s1, s2]

/-- XFR (R80, R396): 64 bits from one register or element to another; a mark zeroes the source register or
element. -/
def execXfr (g : Gd) (df : BitVec 4) (di : BitVec 10) (sf : BitVec 4) (si : BitVec 10) (l : Bool) (el : BitVec 7)
    (s : State) : Host.Outcome State Fault Refusal :=
  runSlot (.xfr g df di sf si l el) s fun s =>
    match axReg sf si el, axReg df di el with
    | [src], [dst] =>
      let s := s.wrId dst (s.rdId src)
      if l then s.zero src else s
    | _, _ => s

/-- XOR (R401). -/
def execXor (g : Gd) (ad : BitVec 6) (s1 s2 : Src) (w : Bool) (s : State) : Host.Outcome State Fault Refusal :=
  runSlot (.xor g ad s1 s2 w) s fun s => s.result ad (bitOp (· ^^^ ·) w (s.rd .a s1) (s.rd .a s2)) [s1, s2]

end Sys2Proof.Machine
end

