-- ==== Sys2Proof/Machine/Points.lean ====
section
/-! DEFINITION. Operating points: the target of a core and the start and end of a transition (R310, R311). -/
namespace Sys2Proof.Machine

/-- REEF of PGRANT (R306). -/
def CorePower.reef (p : CorePower) : Nat := (fld p.pgrant 56 3).toNat

/-- The target point of a core (R311). -/
def targetPoint (c : Core) : Nat := min c.power.reef (max c.main.sys.oppReq.toNat c.miz.sys.oppReq.toNat)

/-- A transition begins when none is in progress, no OPP bundle that waited for the last one goes first, and the target is not the current
point; a lowering changes the frequency at once (R311). -/
def retarget (c : Core) : Core :=
  let t := targetPoint c
  if c.power.trans = none ∧ c.power.due = 0 ∧ t ≠ c.power.point then
    { c with power := { c.power with trans := some t, point := min t c.power.point } }
  else c

/-- The end of a transition: the point is the transition's, and a changed target begins the next (R311), after the next cycle when an OPP
bundle has waited (`opp`). -/
def endTransition (opp : Bool) (c : Core) : Core :=
  match c.power.trans with
  | none => c
  | some t => retarget { c with power := { c.power with trans := none, point := t, due := if opp then 2 else 0 } }

/-- An OPP that issues: its stream's request has changed, and the target is looked at (R310, R311). -/
def oppIssued (c : Core) : Core := retarget { c with power := { c.power with due := 0 } }

/-- `n` cycles pass: an OPP that did not issue in the cycle after the transition lets the next one start (R311). -/
def countDue (n : Nat) (c : Core) : Core :=
  if c.power.due = 0 then c else retarget { c with power := { c.power with due := c.power.due - n } }

end Sys2Proof.Machine
end

