-- ==== Sys2Proof/Machine/Launch.lean ====
section
/-! DEFINITION. Launching a gang: payload, validity, placement, images, presets, and the end of a launch (R62, R257 to
R260, R268, R269). -/
namespace Sys2Proof.Machine

/-! ### The payload of R257 -/

/-- Word `n` of a payload. -/
def payWord (l : List W32) (n : Nat) : W32 := l.getD n 0

/-- Two payload words as a 64-bit value. -/
def payPair (l : List W32) (n : Nat) : W64 := BitVec.ofNat 64 ((payWord l n).toNat + 2 ^ 32 * (payWord l (n + 1)).toNat)

/-- VCL. -/
def payVcl (l : List W32) : BitVec 10 := fld (payWord l 0) 22 10
/-- ZT. -/
def payZt (l : List W32) : Nat := (fld (payWord l 0) 19 3).toNat
/-- LOADD. -/
def payLoadD (l : List W32) : Bool := flag (payWord l 0) 18
/-- LOADT. -/
def payLoadT (l : List W32) : Bool := flag (payWord l 0) 17
/-- STRM. -/
def payStrm (l : List W32) : Strm := if flag (payWord l 0) 15 then .miz else .main
/-- GSIZE. -/
def paySize (l : List W32) : Nat := (fld (payWord l 0) 8 3).toNat
/-- CORE. -/
def payCore (l : List W32) : Nat := (fld (payWord l 0) 0 8).toNat
/-- ENTRY. -/
def payEntry (l : List W32) : Nat := (fld (payWord l 1) 0 18).toNat
/-- TLEN. -/
def payTlen (l : List W32) : Nat := (fld (payWord l 4) 0 13).toNat
/-- DLEN. -/
def payDlen (l : List W32) : Nat := (fld (payWord l 7) 0 25).toNat

/-! ### Validity and placement -/

/-- The partition of a context. -/
def State.partOf (s : State) (ctx : Nat) : Partition := s.mast.parts.get (s.ctx ctx).partition {}

/-- The cores of a gang. -/
def gangCores (lead size : Nat) : List Nat := (List.range size).map (lead + ·)

/-- The positions of R268 for a gang size, in ascending core number; `avoid` names cores that may not be used (R267). -/
def eligible (p : Partition) (size : Nat) (avoid : List Nat) : List Nat :=
  (List.range numCores).filter fun c => (gangCores c size).all fun k =>
    p.cores.contains k && !avoid.contains k && decide (k / 6 = c / 6)

/-- The allotment of a launch conflicts with that of the other stream's running launch on a core (R258). -/
def State.allotClash (s : State) (l : List W32) (c : Nat) : Bool :=
  match (streamOf (s.core c) (payStrm l).other).launch with
  | some o => (payVcl l &&& o.vcl) != 0 || decide (4 < payZt l + o.zt)
  | none => false

/-- The other launches that hold a core while their images load. -/
def State.holders (s : State) (id : Nat) (c : Nat) : List PendLaunch :=
  s.fe.pending.filter fun p => p.id != id &&
    match p.pos with
    | some k => (gangCores k (paySize p.words)).contains c
    | none => false

/-- No launch whose images load stands in the way of an allotment on stream `w` of a core: none is for that stream; one for the other stream
neither clashes with it nor is loading the core's program store (log 30). -/
def State.holdersAllow (s : State) (id : Nat) (c : Nat) (w : Strm) (vcl : BitVec 10) (zt : Nat) : Bool :=
  (s.holders id c).all fun p => payStrm p.words != w && (vcl &&& payVcl p.words) == 0 && decide (zt + payZt p.words ≤ 4) &&
    !(payLoadT p.words && p.pos == some c)

/-- R259 step 1: a launch need not wait at a position. A launch whose images load there counts as one that runs (log 30). -/
def State.idleAt (s : State) (id : Nat) (l : List W32) (lead : Nat) : Bool :=
  let w := payStrm l
  ((gangCores lead (paySize l)).all fun c =>
    (streamOf (s.core c) w).launch.isNone && s.holdersAllow id c w (payVcl l) (payZt l)) &&
  (!payLoadT l || ((streamOf (s.core lead) w.other).launch.isNone && (s.holders id lead).isEmpty))

/-- R259 step 1 and R268: a position is free for a placed launch. -/
def State.freeAt (s : State) (id : Nat) (l : List W32) (lead : Nat) : Bool :=
  s.idleAt id l lead && (gangCores lead (paySize l)).all fun c => !s.allotClash l c

/-- A launch is invalid (R258). `rst` says that it is a restartable RUN node. -/
def State.launchBad (s : State) (ctx : Nat) (l : List W32) (rst : Bool) : Bool :=
  let p := s.partOf ctx
  let c := payCore l
  let g := paySize l
  fld (payWord l 1) 18 14 != 0 || fld (payWord l 4) 13 19 != 0 || fld (payWord l 7) 25 7 != 0 ||
  (decide (144 ≤ c) && decide (c ≤ 254)) || g == 0 || g == 7 || decide (4 < payZt l) ||
  payTlen l == 0 || decide (4096 < payTlen l) ||
  ((payLoadD l || rst) && (payDlen l == 0 || decide (0x1800000 < payDlen l))) ||
  payEntry l % 2 != 0 || decide (64 * payTlen l ≤ payEntry l) ||
  (if c = 255 then (eligible p g []).isEmpty
   else (gangCores c g).any fun k => !p.cores.contains k || decide (k / 6 ≠ c / 6) || s.allotClash l k)

/-- The score of a core in 1/16: temperature in °C plus droop in mV (R268, R356). -/
def State.coreScore (s : State) (c : Nat) : Int :=
  (fld (s.core c).tsense 0 16).toInt + 16 * (fld (s.core c).vsense 0 12).toNat

/-- The score of a position. -/
def State.score (s : State) (lead size : Nat) : Int :=
  (gangCores lead size).foldl (fun m c => max m (s.coreScore c)) (s.coreScore lead)

/-- The earliest of the positions with the least score. -/
def State.best (s : State) (size : Nat) : List Nat → Option Nat
  | [] => none
  | c :: t => match s.best size t with
    | none => some c
    | some d => if s.score d size < s.score c size then some d else some c

/-- Placement (R268): the position of a launch with CORE = 0xFF, and the cursor that follows. -/
def State.place (s : State) (ctx : Nat) (p : PendLaunch) : Option (Nat × Nat) :=
  let part := s.partOf ctx
  let g := paySize p.words
  let free := (eligible part g p.avoid).filter (s.freeAt p.id p.words)
  let cur := s.fe.cursors.get (s.ctx ctx).partition 0
  let ring := (free.filter fun c => decide (cur ≤ c)) ++ free.filter fun c => decide (c < cur)
  (s.best g (ring.take ((fld part.launchRec 32 3).toNat + 1))).map fun c => (c, c + g)

/-- A launch is placed by the dispatcher (R268). -/
def PendLaunch.placed (p : PendLaunch) : Bool := payCore p.words == 255

/-- The position at which a launch may start now. -/
def State.position (s : State) (p : PendLaunch) : Option (Nat × Option Nat) :=
  match p.pos with
  | some c => some (c, none)
  | none =>
    if p.placed then (s.place p.ctx p).map fun q => (q.1, some q.2)
    else if s.idleAt p.id p.words (payCore p.words) then some (payCore p.words, none) else none

/-- A launch that waits or loads has become invalid (R25, R258, R268): a core of its position has left the partition; none is eligible for a
placed one any more; or, when the launch would start at its CORE, its allotment clashes there with the other stream's running launch. -/
def State.startBad (s : State) (p : PendLaunch) : Bool :=
  let part := s.partOf p.ctx
  let g := paySize p.words
  let outside (lead : Nat) : Bool := (gangCores lead g).any fun k => !part.cores.contains k
  match p.pos with
  | some c => outside c
  | none =>
    if p.placed then (eligible part g p.avoid).isEmpty
    else outside (payCore p.words) ||
      (s.idleAt p.id p.words (payCore p.words) && (gangCores (payCore p.words) g).any (s.allotClash p.words))

/-! ### Presets -/

/-- R62: the bank of a stream given to another context is cleared; so are the trap registers, which read zero until the
context takes a trap (R355). -/
def clearBank (ctx : Nat) (st : Stream) : Stream :=
  if st.bank = some ctx then st
  else { st with
    bank := some ctx, q := []
    regs := { st.regs with k := [], a := [], x := [], d := [], m := [], p := [], c := [], g := 1, vg := [] }
    sys := { st.sys with tcause := 0, faultpc := 0, ckptpc := 0 } }

/-- R62: one cluster of the vector file. -/
def clearCluster (ctx : Nat) (c : Core) (n : Nat) : Core :=
  if c.clusterOwner.get n none = some ctx then c
  else { c with v := c.v.filter (fun p => p.1 / 64 != n), clusterOwner := c.clusterOwner.set n (some ctx) none }

/-- R62: one tile. -/
def clearTile (ctx : Nat) (c : Core) (z : Nat) : Core :=
  if (c.tiles.get z {}).owner = some ctx then c else { c with tiles := c.tiles.set z { owner := some ctx } {} }

/-- The clusters that a mask names. -/
def clustersOf (vcl : BitVec 10) : List Nat := (List.range 10).filter fun n => flag vcl n

/-- R62 on a core: the bank, the clusters and the tiles that a launch or a restore gives to a context. -/
def giveCore (ctx : Nat) (w : Strm) (vcl : BitVec 10) (zt : Nat) (c : Core) : Core :=
  let c := (clustersOf vcl).foldl (clearCluster ctx) c
  let c := (List.range zt).foldl (fun c n => clearTile ctx c (tileBase w zt + n)) c
  putStream c w (clearBank ctx (streamOf c w))

/-- The launch registers of a member (R194, R259 step 3). -/
def launchInfo (p : PendLaunch) (group lead pos : Nat) : LaunchInfo :=
  let l := p.words
  { id := p.id, ctx := p.ctx, lead, gpos := pos, gsize := paySize l, skew := fld (payWord l 0) 11 4
    det := flag (payWord l 0) 16, vcl := payVcl l, zt := payZt l, tlen := payTlen l, group, node := p.node }

/-- SAFEMAX of a launch (R257, R269). -/
def safemaxOf (part : Partition) (l : List W32) : W64 :=
  let cap := fld part.launchRec 0 32
  let v := payWord l 8
  (if v = 0 ∨ cap < v then cap else v).setWidth 64

/-- Step 3 of R259 on one stream. -/
def presetStream (info : LaunchInfo) (entry : Nat) (safemax : W64) (st : Stream) : Stream :=
  { st with
    regs := { st.regs with
      t := [], pc := BitVec.ofNat 48 entry, loops := [], holds := {}, fmtr := 0x600, fmtPend := none, slack := 0xFFFF
      dom := 4, rcm := info.vcl, tags := st.regs.tags.update (fun e => { e with valid := false }) {}, fans := [], xparam := [], packRes := 0, sumRes := 0, phase := {}, handler := none }
    gens := [], withheld := [], atoms := [], beforeV := [], beforeQ := [], tileImgs := [], statImgs := [], bundleNo := 0
    mq := [], pq := [], xq := [], dheld := [], dq := []
    sys := { st.sys with
      safemax, safeCount := 0, blogm := [], blogp := [], seqm := 0, seqp := 0, oppReq := 5
      cbars := [], past := [], gatedClusters := 0 }
    run := .running, launch := some info, traps := [], ckpt := none, ckptAt := some (BitVec.ofNat 48 entry)
    preempt := false, freezeReq := false, debugReq := false, phaseWait := none, groupR := [], groupW := [], dupR := [], dupW := []
    shroud := [], frozen := {}, early := [] }

/-- A context's records of a core's scratchpad log, the latest first, put their bytes back. -/
def undoBytes (ctx : Nat) (c : Core) (m : SMap Byte) : SMap Byte :=
  (c.undo.filter fun e => e.1 == ctx).foldl (fun m e => writeBytes m (64 * e.2.1) e.2.2) m

/-- A core passes to a context: the scratchpad and the tiles of another context's saved streams of that core, which stayed in
place, go into their images (R293), and into its recovery images of the core the scratchpad as its recovery point had it (R301). -/
def State.saveSpads (s : State) (ctx core : Nat) : State :=
  let c := s.core core
  let tiles (i : SavedImg) : List (Nat × Tile) :=
    let l := i.st.launch.getD {}
    (List.range l.zt).map fun n => (tileBase i.r.strm l.zt + n, c.tiles.get (tileBase i.r.strm l.zt + n) {})
  let stays (i : SavedImg) : Bool := i.r.core == core && i.ctx != ctx && i.spad.isNone
  { s with
    saved := s.saved.map fun i => if stays i then { i with spad := some c.spad, tiles := if i.tiles.isEmpty then tiles i else i.tiles } else i
    recov := s.recov.map fun (p : Nat × Recov) =>
      (p.1, { p.2 with images := p.2.images.map fun i => if stays i then { i with spad := some (undoBytes p.1 c c.spad) } else i }) }

/-- One member starts: R62, the presets, the operating point (R310), and the implicit checkpoint (R259 step 4). -/
def State.startMember (s : State) (p : PendLaunch) (lead pos : Nat) : State :=
  let w := payStrm p.words
  let info := launchInfo p (s.fe.groups.get p.id 0) lead pos
  let s := s.saveSpads p.ctx (lead + pos)
  s.updCore (lead + pos) fun c =>
    let c := giveCore p.ctx w info.vcl info.zt c
    let c := putStream c w (presetStream info (payEntry p.words) (safemaxOf (s.partOf p.ctx) p.words) (streamOf c w))
    retarget { commitCore (s.logged p.ctx) c w with quiet := 0 }

/-- Of `n` bytes from scratchpad address `a`, those that a context of logged writes may write before a line that the core's log cannot take
(R300). -/
def landRoom (ctx : Nat) (c : Core) (a n : Nat) : Nat :=
  match ((linesOf a n).filter fun l => !c.undo.any fun p => p.1 == ctx && p.2.1 == l)[4096 - c.undo.length]? with
  | some l => 64 * l - a
  | none => n

/-- Bytes of the data image land in a member's scratchpad (R259 step 2), which another context's saved streams leave first (R293). -/
def State.landData (ctx a : Nat) (bs : List Byte) (s : State) (c : Nat) : State :=
  if bs.isEmpty then s
  else (s.saveSpads ctx c).updCore c fun k => coreSpadWrite (logSpad (s.logged ctx) ctx k a bs.length) a bs

/-- The launch starts at `lead` with its images read and its data landed (R259). -/
def State.startLaunch (s : State) (p : PendLaunch) (lead : Nat) : State :=
  let g := paySize p.words
  let s := if p.text.isEmpty then s else s.updCore lead fun c => { c with prog := writeBytes c.prog 0 p.text }
  let s := (List.range g).foldl (fun s n => s.startMember p lead n) s
  { s with fe := { s.fe with pending := s.fe.pending.filter fun q => q.id != p.id } }

/-! ### Streams of launches -/

/-- The streams of a launch. -/
def State.launchStreams (s : State) (id : Nat) : List SRef :=
  (s.streams.filter fun p => (p.2.launch.map LaunchInfo.id) == some id).map (·.1)

/-- The launch of an identifier, in a core or in a saved image. -/
def State.launchInfo (s : State) (id : Nat) : Option LaunchInfo :=
  ((s.streams.map fun p => p.2.launch) ++ s.saved.map fun i => i.st.launch).findSome? fun l =>
    if l.map LaunchInfo.id = some id then l else none

/-- The streams of a context. -/
def State.ctxStreams (s : State) (ctx : Nat) : List SRef :=
  (s.streams.filter fun p => (p.2.launch.map LaunchInfo.ctx) == some ctx).map (·.1)

/-- Whether an operation of the stream has yet to retire (R176, R260). -/
def Stream.busy (st : Stream) : Bool :=
  !st.mpx.isEmpty || !st.dheld.isEmpty || st.dq.any fun o => o.stage != .finished

/-- Whether an operation issued before `n` has yet to retire (R176). -/
def Stream.busyBefore (st : Stream) (n : Nat) : Bool :=
  (st.mpx ++ st.dheld ++ st.dq.filter fun o => o.stage != .finished).any fun o => decide (o.id < n)

/-- A stream leaves its launch; what it had in flight is gone. -/
def idleStream (st : Stream) : Stream :=
  { st with
    run := .idle, launch := none, mq := [], pq := [], xq := [], dheld := [], dq := [], traps := [], ckpt := none
    preempt := false, freezeReq := false, debugReq := false, phaseWait := none, shroud := [], frozen := {}, withheld := [], atoms := [], beforeV := []
    beforeQ := [], tileImgs := [], statImgs := [] }

/-- Unfinished tree registrations of a launch are withdrawn (R297); its CBARs leave with their queue. -/
def State.withdraw (s : State) (launch : Nat) : State :=
  let fix (i : TreeInst) : TreeInst :=
    match i.own with
    | some o => if o.who.map (·.launch) = some launch then { i with own := none } else i
    | none => i
  { s with fabric := { s.fabric with
      nodes := s.fabric.nodes.map fun (p : Nat × TreeNode) => (p.1, { p.2 with insts := p.2.insts.map fix }) } }

/-- What a queue keeps. -/
def State.work (s : State) (qid : Nat) : QWork := s.fe.work.get qid {}

/-- Replace what a queue keeps. -/
def State.setWork (s : State) (qid : Nat) (w : QWork) : State :=
  { s with fe := { s.fe with work := s.fe.work.set qid w {} } }

/-- Change what every queue keeps. -/
def State.mapWork (s : State) (f : QWork → QWork) : State :=
  { s with fe := { s.fe with work := s.fe.work.update f {} } }

/-- The streams of a launch become idle; protection that its writes took away returns (R215); event 4 is posted (R260, R277); no queue waits
for the launch (R253). -/
def State.endStreams (s : State) (id ctx : Nat) : State :=
  let rs := s.launchStreams id
  let s := rs.foldl (fun s r => s.updStream r idleStream) (s.withdraw id)
  let s := (s.regain ctx id).mapWork fun w => { w with launches := w.launches.filter (· != id) }
  let s := { s with saved := s.saved.filter fun i => (i.st.launch.map LaunchInfo.id) != some id }
  s.post 4 (okey 1 ctx) (BitVec.ofNat 64 ctx) 0

/-- A new launch is put with the pending ones. -/
def State.pend (s : State) (ctx : Nat) (words : List W32) (queue : Option Nat) (node : Option (Nat × Nat)) (avoid : List Nat)
    (dva snap : Option W64) : State :=
  let id := s.fe.nextLaunch
  let p : PendLaunch := { id, ctx, words, queue, node, avoid, dva, snap }
  { s with fe := { s.fe with nextLaunch := id + 1, pending := s.fe.pending ++ [p] } }

end Sys2Proof.Machine
end

