-- ==== Sys2Proof/Machine/Domain.lean ====
section
/-! DEFINITION. Where a stream of a launch stands (running or saved), the domains of R197, and the instances that a domain has completed before a
stream joins it (R197, R198, R203). -/
namespace Sys2Proof.Machine

/-! ### Places -/

/-- Where a stream of a launch is: in its core, or in the n-th saved image (R292). -/
inductive Place where
  | live (r : SRef)
  | saved (n : Nat)
  deriving DecidableEq, Repr, Inhabited

/-- A stream of a launch, wherever it is. -/
structure Member where
  at_ : Place
  r : SRef
  st : Stream
  deriving DecidableEq, Repr

/-- Every stream of every launch that has not ended. -/
def State.members (s : State) : List Member :=
  (s.streams.map fun p => ⟨.live p.1, p.1, p.2⟩) ++ s.saved.zipIdx.map fun p => ⟨.saved p.2, p.1.r, p.1.st⟩

/-- The stream at a place. -/
def State.memberAt (s : State) (p : Place) : Option Member := s.members.find? fun m => m.at_ == p

/-- Change the stream at a place. -/
def State.updPlace (s : State) (p : Place) (f : Stream → Stream) : State :=
  match p with
  | .live r => s.updStream r f
  | .saved n => { s with saved := s.saved.modify n fun i => { i with st := f i.st } }

/-- The stream of a launch that is named by its position in the package. -/
def State.member (s : State) (launch : Nat) (r : SRef) : Option Member :=
  s.members.find? fun m => (m.st.launch.map LaunchInfo.id) == some launch && m.r == r

/-- The stream of a launch with the position in its gang that `l` gives, wherever it is now. -/
def State.memberOf (s : State) (l : LaunchInfo) : Option Member :=
  s.members.find? fun m => m.st.launch.any fun x => x.id == l.id && x.gpos == l.gpos

/-! ### Domains -/

/-- Whether stream `b` is in the domain of stream `a` at a level (R197, R203). -/
def inDomain (level : Nat) (a b : Member) : Bool :=
  match a.st.launch, b.st.launch with
  | some x, some y =>
    match level with
    | 0 => a.at_ == b.at_
    | 1 => a.r.core == b.r.core && x.ctx == y.ctx
    | 2 => x.id == y.id
    | 3 => a.r.core / 36 == b.r.core / 36 && x.ctx == y.ctx
    | 4 => x.ctx == y.ctx
    | _ => if x.group = 0 then x.id == y.id else x.group == y.group
  | _, _ => false

/-- The participants of the domain of a stream at a level. -/
def State.domain (s : State) (level : Nat) (m : Member) : List Member := s.members.filter (inDomain level m)

/-- The participants on peer devices of the domain of a stream: those of its fabric group at level 5 (R203). -/
def State.remotesOf (s : State) (level : Nat) (st : Stream) : List Remote :=
  let g := (st.launch.map LaunchInfo.group).getD 0
  if level = 5 ∧ g ≠ 0 then s.peers.remotes.get g [] else []

/-! ### Counts -/

/-- The number of CBARs that a stream has completed at a level. -/
def cbarCount (st : Stream) (level : Nat) : Nat := st.sys.cbars.get level 0

/-- The number of PHASEs that a stream has completed at a level. -/
def phaseCount (st : Stream) (level : Nat) : Nat := (st.regs.phase.kinds.get level []).length

/-- What a stream knows of the instances that its domain at a level had completed when it joined. -/
def pastOf (st : Stream) (level : Nat) : Past := st.sys.past.get level {}

/-- The KINDs of two lists of completed PHASEs, instance by instance. -/
def joinKinds : List (List Bool) → List (List Bool) → List (List Bool)
  | a :: s, b :: t => (a ++ b).eraseDups :: joinKinds s t
  | [], t => t
  | s, [] => s

/-- The instances that a domain has completed, as a participant and those it has joined know them. -/
def seenBy (level : Nat) (p : Past) (m : Member) : Past :=
  let q := pastOf m.st level
  { cbars := max p.cbars (max q.cbars (cbarCount m.st level))
    phases := joinKinds p.phases (joinKinds q.phases ((m.st.regs.phase.kinds.get level []).map fun k => [k])) }

/-- The same of a participant on a peer device: of those at which it has arrived, the last may not be complete (R203). -/
def seenFar (p : Past) (r : Remote) : Past :=
  { cbars := max p.cbars (r.cbars - 1), phases := joinKinds p.phases (r.phases.dropLast.map fun k => [k]) }

/-- The instances that the domain of a stream which joins it has completed (R197): its first CBARs and PHASEs match them, also once the launches
that completed them have ended. -/
def State.pastFor (s : State) (level : Nat) (m : Member) : Past :=
  let others := (s.domain level m).filter fun p => (p.st.launch.map LaunchInfo.id) != m.st.launch.map LaunchInfo.id
  (s.remotesOf level m.st).foldl seenFar (others.foldl (seenBy level) {})

/-- The streams of a launch join their domains (R197). -/
def State.joinDomains (s : State) (launch : Nat) : State :=
  (s.launchStreams launch).foldl (fun t r =>
    let past := (List.range 6).foldl (fun (l : SMap Past) n => l.set n (s.pastFor n ⟨.live r, r, s.stream r⟩) {}) []
    t.updSys r fun y => { y with past }) s

end Sys2Proof.Machine
end

