-- ==== Sys2Proof/Machine/Graph.lean ====
section
/-! DEFINITION. The task graph: images, triggers, runs, nodes (R261 to R267), and the end of a launch (R260). -/
namespace Sys2Proof.Machine

/-- The key of a graph. -/
def gkey (ctx gid : Nat) : Nat := 256 * ctx + gid

/-- A loaded graph. -/
def State.graph (s : State) (k : Nat) : Option Graph := s.fe.graphs.get k none

/-- Replace a graph. -/
def State.setGraph (s : State) (k : Nat) (g : Option Graph) : State :=
  { s with fe := { s.fe with graphs := s.fe.graphs.set k g none } }

/-! ### Graph images -/

/-- A little-endian field of an image. -/
def leAt (bs : List Byte) (off n : Nat) : Nat := leNat ((bs.drop off).take n)

/-- A node record (R261); none when a Reserved field or KIND is reserved, its successor list overruns the
image, or SUCCOFF is odd or lies past the image (log 28). -/
def parseNode (img : List Byte) (i : Nat) : Option GNode :=
  let r := (img.drop (64 + 64 * i)).take 64
  let w0 := leAt r 0 4
  let nsucc := leAt r 4 2
  let off := leAt r 8 4
  let kind : Option NodeKind := match w0 % 16 with
    | 0 => some .run | 1 => some .copy | 2 => some .signal | 3 => some .empty | _ => none
  if r.length < 64 ∨ w0 / 32 % 2048 ≠ 0 ∨ leAt r 6 2 ≠ 0 ∨ leAt r 12 4 ≠ 0 ∨ leAt r 60 4 ≠ 0 ∨ off % 2 ≠ 0 ∨
      img.length < off + 2 * nsucc then none
  else kind.map fun kind =>
    let lst := img.drop off
    { kind, rst := w0 / 16 % 2 == 1, npred := w0 / 65536
      succ := (List.range nsucc).map fun j => leAt lst (2 * j) 2
      body := (List.range 9).map fun j => BitVec.ofNat 32 (leAt r (16 + 4 * j) 4)
      snap := BitVec.ofNat 64 (leAt r 52 8) }

/-- The node records. -/
def parseNodes (img : List Byte) : Nat → Option (List GNode)
  | 0 => some []
  | n + 1 => do
    let l ← parseNodes img n
    let x ← parseNode img n
    return l ++ [x]

/-- How many successor-list entries name node `i`. -/
def namedBy (l : List GNode) (i : Nat) : Nat := (l.map fun n => n.succ.count i).sum

/-- Rounds in which every node whose count has fallen to 0 is removed; what is left after as many rounds as nodes lies
on a cycle or behind one. -/
def removeReady (l : List GNode) : Nat → List (Nat × Nat) → List (Nat × Nat)
  | 0, live => live
  | fuel + 1, live =>
    let zero := (live.filter fun p => p.2 == 0).map (·.1)
    if zero.isEmpty then live
    else removeReady l fuel
      ((live.filter fun p => p.2 != 0).map fun p =>
        (p.1, p.2 - (zero.map fun z => ((l[z]?).map fun n => n.succ.count p.1).getD 0).sum))

/-- A graph image (R262): the graph, or none when it is invalid. `space` is the space left in scheduler memory. -/
def parseGraph (img : List Byte) (space : Nat) : Option Graph :=
  let n := leAt img 0 4
  if img.length < 64 ∨ space < img.length ∨ n = 0 ∨ 65535 < n ∨ leAt img 4 4 ≠ 0 ∨ !((img.drop 24).take 40).all (· == 0) ∨
      img.length < 64 + 64 * n then none
  else do
    let nodes ← parseNodes img n
    let ok := (List.range n).all fun i =>
      ((nodes[i]?).map fun x => x.npred == namedBy nodes i && x.succ.all fun j => decide (j < n)).getD false
    let live := (List.range n).map fun i => (i, ((nodes[i]?).map GNode.npred).getD 0)
    if ok && (removeReady nodes n live).isEmpty then
      some { nodes, plbase := BitVec.ofNat 64 (leAt img 8 8), doneva := BitVec.ofNat 64 (leAt img 16 8), bytes := img.length }
    else none

/-- Space left in the 16 MiB of scheduler memory, with the graph at key `k` given up (R16, R262). -/
def State.schedSpace (s : State) (k : Nat) : Nat :=
  2 ^ 24 - (s.fe.graphs.map fun p => if p.1 = k then 0 else (p.2.map Graph.bytes).getD 0).sum

/-! ### Answers to a trigger -/

/-- A trigger write arrives at the scheduler (R263, R265). -/
def State.arrive (s : State) (ctx : Nat) (v : W64) (src : TrigFrom) : State :=
  { s with fe := { s.fe with triggers := s.fe.triggers ++ [(ctx, v, src)] } }

/-- The sender of a trigger learns its status (R266): a GTRIG completes with it. -/
def State.answerTrig (s : State) (src : TrigFrom) (status : Nat) : State :=
  match src with
  | .stream r id => match s.dOp r id with
    | some o => if o.sent then s.dRetire r o status else s
    | none => s
  | _ => s

/-- A run that a GRAPHRUN started or held has ended or was rejected (R253). -/
def State.endQueueRun (s : State) (src : TrigFrom) : State :=
  match src with
  | .queue qid run => s.setWork qid { s.work qid with runs := (s.work qid).runs.filter (· != run) }
  | _ => s

/-! ### Runs -/

/-- A patch of R263: node, word, value; none with a nonzero Reserved field. -/
def parsePatch (bs : List Byte) : Option (Nat × Nat × W32) :=
  let v := leNat bs
  if v / 2 ^ 32 % 2 ^ 12 ≠ 0 then none else some (v / 2 ^ 48, v / 2 ^ 44 % 16, BitVec.ofNat 32 v)

/-- Write a patch into the stored bodies. -/
def applyPatch (l : List GNode) (p : Nat × Nat × W32) : List GNode :=
  l.modify p.1 fun n => { n with body := n.body.set p.2.1 p.2.2 }

/-- A payload with CORE = 0xFF. -/
def placedWords (l : List W32) : List W32 := l.set 0 (payWord l 0 ||| 0xFF)

/-- Whether the snapshot of a node has been copied in a run (R267). -/
def GRun.snapped (u : GRun) (i : Nat) : Bool := u.snaps.any fun p => p.1 == i

/-- A RUN node of run `u` launches (R259, R267); one that is executed again is placed, without the cores in `avoid`, and loads its data image
from the snapshot, which is copied first if that has yet to be done. An invalid launch is a failed node: none; so is a first launch in a context that
is being terminated (R297, log 34). -/
def State.launchNode (s : State) (ctx k i : Nat) (u : GRun) (n : GNode) (avoid : List Nat) (again : Bool) : Option (State × Nat) :=
  let body := if again then placedWords n.body else n.body
  if s.launchBad ctx body n.rst || (!again && s.isEnding ctx) || (again && (eligible (s.partOf ctx) (paySize body) avoid).isEmpty) then none
  else
    let made := u.snapped i
    let dva := if again then some (if made then n.snap else payPair body 5) else none
    let snap := if n.rst && !made then some n.snap else none
    some (s.pend ctx body none (some (k, i)) avoid dva snap, s.fe.nextLaunch)

/-- The state of a node. -/
def setNode (run : GRun) (i : Nat) (x : NodeState) : GRun := { run with nodes := run.nodes.set i x }

/-- The nodes whose count is 0 launch, unless the run has failed (R264, R267). -/
def State.launchReady (s : State) (ctx k : Nat) : List Nat → State
  | [] => s
  | i :: t =>
    match s.graph k with
    | none => s
    | some g =>
      match g.run with
      | none => s
      | some run =>
        let s := match run.failed, run.nodes[i]?, g.nodes[i]? with
          | none, some (.waiting 0), some n =>
            match n.kind with
            | .run =>
              match s.launchNode ctx k i run n [] false with
              | some (s, id) => s.setGraph k (some { g with run := some (setNode run i (.running id 0 [])) })
              | none => s.setGraph k (some { g with run := some { setNode run i .complete with failed := some i } })
            | _ => s.setGraph k (some { g with run := some (setNode run i (.busy [] 0 none 0)) })
          | _, _, _ => s
        State.launchReady s ctx k t

/-- Whether a node is at work. -/
def NodeState.active : NodeState → Bool
  | .running .. | .busy .. => true
  | _ => false

/-- Whether a node is at work in the launch `id`. -/
def NodeState.runs (id : Nat) : NodeState → Bool
  | .running l _ _ => l == id
  | _ => false

/-- Whether a node is at work that no launch executes, held by the fault record `f` or by none. -/
def NodeState.works (f : Option Nat) : NodeState → Bool
  | .busy _ _ x _ => x == f
  | _ => false

/-- A run is at its end (R264): every node is complete, or the run has failed. Nodes that are still at work finish after it (R267). -/
def GRun.atEnd (r : GRun) : Bool := r.nodes.all (· == .complete) || r.failed.isSome

/-- A run of a graph with its node records: the one in progress, or one that has failed and ended, by its place in `left`. -/
def Graph.runAt (g : Graph) (w : Option Nat) : Option (GRun × List GNode) :=
  match w with
  | none => g.run.map fun u => (u, g.nodes)
  | some j => g.left[j]?

/-- Replace a run of a graph. One that has ended leaves once none of its nodes is at work. -/
def Graph.putRun (g : Graph) (w : Option Nat) (u : GRun) : Graph :=
  match w with
  | none => { g with run := some u }
  | some j => { g with left := if u.nodes.any NodeState.active then g.left.modify j fun e => (u, e.2) else g.left.eraseIdx j }

/-- The first run of a graph, the one in progress before those that have ended, that `p` holds of. -/
def Graph.findRun (g : Graph) (p : GRun → Bool) : Option (Option Nat) :=
  (none :: (List.range g.left.length).map some).find? fun w => (g.runAt w).any fun e => p e.1

/-- The first run whose node `i` is in a state that `p` holds of. -/
def Graph.runOf (g : Graph) (i : Nat) (p : NodeState → Bool) : Option (Option Nat) := g.findRun fun u => (u.nodes[i]?).any p

/-- Change every run of a graph. -/
def Graph.mapRuns (g : Graph) (f : GRun → GRun) : Graph := { g with run := g.run.map f, left := g.left.map fun e => (f e.1, e.2) }

/-- The runs of a graph. -/
def Graph.allRuns (g : Graph) : List GRun := g.run.toList ++ g.left.map (·.1)

/-- The completion word (R264). -/
def doneWord (runs : Nat) (failed : Option Nat) : W64 :=
  BitVec.ofNat 64 (runs % 2 ^ 32 * 2 ^ 32 + (failed.getD 0xFFFF) % 2 ^ 16 * 2 ^ 16 + if failed.isSome then 1 else 0)

/-- The end of a run (R264, R277): DONEVA is written as a release, event 4 is posted, and the queue that started the run is
told. A failed run counts among those completed since load (log 28). Its nodes at work go on (R267). A fault suspends the write (R240). -/
def State.endRun (s : State) (ctx k : Nat) (g : Graph) (run : GRun) : State :=
  let w := doneWord (g.runs + 1) run.failed
  let close (s : State) : State :=
    let left := if run.nodes.any NodeState.active then g.left ++ [(run, g.nodes)] else g.left
    let s := s.setGraph k (some { g with run := none, runs := g.runs + 1, wrote := 0, fault := none, left })
    let s := s.mapWork fun w => { w with runs := w.runs.filter (· != run.id) }
    s.post 4 (okey 1 ctx) (BitVec.ofNat 64 ctx) w
  match s.vaWrite ctx g.doneva.toNat (leBytes 8 w.toNat) g.wrote with
  | (s, k', .fault va c l) =>
    let s := s.setGraph k (some { g with run := some run, wrote := k', fault := some s.nextFault })
    s.addFault (ioFault ctx va c l true 0 .main 0 (.graph ctx (k % 256) none))
  | (s, k', .room) => s.setGraph k (some { g with run := some run, wrote := k' })
  | (s, _, _) => close s

/-- A run at its end ends, unless the write of its completion word is suspended. -/
def State.endIfDone (s : State) (ctx k : Nat) : State :=
  match s.graph k with
  | some g => match g.run with
    | some run => if run.atEnd && g.fault.isNone then s.endRun ctx k g run else s
    | none => s
  | none => s

/-- A node of a run has ended: it is complete, its successors count down and launch, and the run ends when that was the last node or the node has
failed (R264). In a run that has ended nothing follows. -/
def State.nodeEnd (s : State) (ctx k i : Nat) (w : Option Nat) (failed : Bool) : State :=
  match s.graph k with
  | none => s
  | some g =>
    match g.runAt w with
    | none => s
    | some (run, _) =>
      if w.isSome then s.setGraph k (some (g.putRun w (setNode run i .complete))) else
      let succ := ((g.nodes[i]?).map GNode.succ).getD []
      let down (l : List NodeState) (j : Nat) : List NodeState :=
        l.modify j fun x => match x with | .waiting c => .waiting (c - 1) | x => x
      let run := setNode run i .complete
      let run := if failed then { run with failed := some (run.failed.getD i) }
        else { run with nodes := succ.foldl down run.nodes }
      let s := s.setGraph k (some { g with run := some run })
      let s := if failed then s else s.launchReady ctx k succ.eraseDups
      s.endIfDone ctx k

/-- The nodes of a new run: those without predecessors launch (R264). -/
def State.startRun (s : State) (ctx k : Nat) (g : Graph) (id : Nat) : State :=
  let run : GRun := { id, nodes := g.nodes.map fun n => .waiting n.npred }
  let s := s.setGraph k (some { g with run := some run })
  (s.launchReady ctx k (List.range g.nodes.length)).endIfDone ctx k

/-- The number of the run that a trigger starts: a queue's was given with its packet. -/
def TrigFrom.run (src : TrigFrom) (next : Nat) : Nat := match src with | .queue _ n => n | _ => next

/-- The patches of the held trigger are read and applied and its run starts, or it is rejected (R263, R265). A fault of the
patch-list read suspends it. -/
def State.tryTrigger (s : State) (ctx k : Nat) : State :=
  match s.graph k with
  | none => s
  | some g =>
    match g.held, g.run with
    | some h, none =>
      let n := (fld h.value 48 8).toNat
      let va := (g.plbase.toNat + (fld h.value 0 40).toNat) % 2 ^ 64
      let reject (s : State) : State :=
        let s := (s.setGraph k (some { g with held := none })).endQueueRun h.src
        if h.fresh then s.answerTrig h.src 20 else s
      match s.vaRead ctx va (8 * n) h.got with
      | (s, got, .ok) =>
        let ps := (List.range n).map fun i => parsePatch ((got.drop (8 * i)).take 8)
        let bad := ps.any fun p => match p with
          | none => true
          | some (i, w, _) => decide (g.nodes.length ≤ i) || decide (8 < w)
        if bad || (fld h.value 0 3).toNat != 0 then reject s
        else
          let g := { g with held := none, nodes := (ps.filterMap id).foldl applyPatch g.nodes }
          let id := h.src.run s.fe.nextRun
          let s := { s with fe := { s.fe with nextRun := s.fe.nextRun + 1 } }
          let s := if h.fresh then s.answerTrig h.src 0 else s
          s.startRun ctx k g id
      | (s, got, .fault va c l) =>
        let s := s.setGraph k (some { g with held := some { h with got, fault := some s.nextFault } })
        s.addFault (ioFault ctx va c l false 0 .main 0 (.graph ctx (k % 256) none))
      | (s, got, .room) => s.setGraph k (some { g with held := some { h with got } })
      | (s, _, _) => reject s
    | _, _ => s

/-- A trigger write of a context (R263, R265, R266). One that finds another with its patch list still to be read is rejected, as by a held one (log 28). -/
def State.takeTrigger (s : State) (ctx : Nat) (v : W64) (src : TrigFrom) : State :=
  let k := gkey ctx (fld v 56 8).toNat
  match s.graph k with
  | none => (s.endQueueRun src).answerTrig src 20
  | some g =>
    if fld v 40 8 != 0 then (s.endQueueRun src).answerTrig src 20
    else if g.held.isSome then (s.endQueueRun src).answerTrig src 21
    else
      let s := s.setGraph k (some { g with held := some { value := v, src, fresh := g.run.isNone } })
      if g.run.isSome then s.answerTrig src 0 else s.tryTrigger ctx k

/-! ### Ends of launches and nodes -/

/-- A RUN node that runs as launch `id` ends with a failure or not; `hard` says that a hardware error failed it, in which
case a restartable node runs again elsewhere, at most twice (R267), also when its run has failed and ended (log 36). -/
def State.runNodeEnd (s : State) (ctx k i id : Nat) (failed hard : Bool) (used : List Nat) : State :=
  match s.graph k with
  | none => s
  | some g =>
    match (g.runOf i (NodeState.runs id)).bind fun w => (g.runAt w).map fun e => (w, e) with
    | none => s
    | some (w, run, nodes) =>
      match run.nodes[i]?, nodes[i]? with
      | some (.running _ tries bad), some n =>
        if !failed then s.nodeEnd ctx k i w false
        else if hard && n.rst && decide (tries < 2) then
          let bad := bad ++ used
          match s.launchNode ctx k i run n bad true with
          | some (s, id) => s.setGraph k (some (g.putRun w { setNode run i (.running id (tries + 1) bad) with
              done := run.done.filter fun d => d.1 != i }))
          | none => s.nodeEnd ctx k i w true
        else s.nodeEnd ctx k i w true
      | _, _ => s

/-- A launch ends (R260): its streams become idle, and its RUN node ends with it. -/
def State.endLaunch (s : State) (id : Nat) (failed hard : Bool) : State :=
  match s.launchInfo id with
  | none => s
  | some l =>
    let cores := (s.launchStreams id).map SRef.core
    let s := s.endStreams id l.ctx
    match l.node with
    | some (k, i) => s.runNodeEnd l.ctx k i id failed hard cores
    | none => s

/-- GDONE of a member (R266): the node completes once every member has signalled; a second one of a member changes nothing (log 36). The status is 19 outside a node or in a
node that has completed. -/
def State.gdone (s : State) (r : SRef) (code : Nat) : State × Nat :=
  match (s.stream r).launch with
  | none => (s, 19)
  | some l =>
    match l.node with
    | none => (s, 19)
    | some (k, i) =>
      match s.graph k with
      | none => (s, 19)
      | some g =>
        match (g.runOf i (NodeState.runs l.id)).bind fun w => (g.runAt w).map fun e => (w, e.1) with
        | none => (s, 19)
        | some (w, run) =>
          let done := if run.done.any fun d => d.1 == i && d.2.1 == l.gpos then run.done else run.done ++ [(i, l.gpos, code)]
          let s := s.setGraph k (some (g.putRun w { run with done }))
          let mine := done.filter fun d => d.1 == i
          if mine.length = l.gsize then (s.nodeEnd l.ctx k i w (mine.any fun d => d.2.2 != 0), 0) else (s, 0)

/-- A COPY, SIGNAL or EMPTY node works and completes (R261, R264, R267): a failure is a status of 12 or more. A SIGNAL whose VA is not aligned
to 8, for which the manual names no failure, writes its word where it lies, and one whose write ends with an error fails (log 28). -/
def State.workNode (s : State) (ctx k i : Nat) : State :=
  match s.graph k with
  | none => s
  | some g =>
    match (g.runOf i (NodeState.works none)).bind fun w => (g.runAt w).map fun e => (w, e) with
    | none => s
    | some (w, run, nodes) =>
      match run.nodes[i]?, nodes[i]? with
      | some (.busy got wrote none tries), some n =>
        let put (s : State) (got : List Byte) (wrote : Nat) (f : Option Nat) : State :=
          s.setGraph k (some (g.putRun w (setNode run i (.busy got wrote f tries))))
        let who : FaultWho := .graph ctx (k % 256) (some i)
        let finish (s : State) (got : List Byte) (va : Nat) (bs : List Byte) : State :=
          match s.vaWrite ctx va bs wrote with
          | (s, _, .ok) => s.nodeEnd ctx k i w false
          | (s, n, .fault va c l) => (put s got n (some s.nextFault)).addFault (ioFault ctx va c l true 0 .main 0 who)
          | (s, n, .room) => put s got n none
          | (s, _, _) => s.nodeEnd ctx k i w true
        match n.kind with
        | .empty => s.nodeEnd ctx k i w false
        | .signal => finish s got (payPair n.body 0).toNat (leBytes 8 (payPair n.body 2).toNat)
        | .copy =>
          let len := (payWord n.body 4).toNat
          if len = 0 ∨ 2 ^ 30 < len then s.nodeEnd ctx k i w true
          else match s.vaRead ctx (payPair n.body 0).toNat len got with
            | (s, got, .ok) => finish s got (payPair n.body 2).toNat got
            | (s, got, .fault va c l) =>
              (put s got wrote (some s.nextFault)).addFault (ioFault ctx va c l false 0 .main 0 who)
            | (s, got, .room) => put s got wrote none
            | (s, _, _) => s.nodeEnd ctx k i w true
        | .run => s
      | _, _ => s

/-- A hardware error ends a context (R267, R301): a COPY node of it that is at work has failed. With RST = 1 it is executed again from its
first byte, at most twice. `p` names its run and the node. -/
def State.failCopy (ctx k : Nat) (s : State) (p : Nat × Nat) : State :=
  match s.graph k with
  | none => s
  | some g =>
    match (g.findRun fun u => u.id == p.1).bind fun w => (g.runAt w).map fun e => (w, e) with
    | none => s
    | some (w, run, nodes) =>
      match run.nodes[p.2]?, nodes[p.2]? with
      | some (.busy _ _ held tries), some n =>
        if n.kind ≠ .copy then s
        else
          let s := { s with faults := s.faults.filter fun f => some f.n != held }
          if n.rst && decide (tries < 2) then s.setGraph k (some (g.putRun w (setNode run p.2 (.busy [] 0 none (tries + 1)))))
          else s.nodeEnd ctx k p.2 w true
      | _, _ => s

/-- The COPY nodes of a context that a hardware error ends. -/
def State.failCopies (s : State) (ctx : Nat) : State :=
  (s.fe.graphs.filter fun p => p.1 / 256 == ctx).foldl (fun s p =>
    (((p.2.map Graph.allRuns).getD []).flatMap fun u => (List.range u.nodes.length).map fun i => (u.id, i)).foldl (State.failCopy ctx p.1) s) s

/-! ### The meanings -/

/-- The place of a sender in the order of R265: Main, Mizzen, queue packets, peer writes. -/
def TrigFrom.rank : TrigFrom → Nat
  | .stream r _ => if r.strm = .main then 0 else 1
  | .queue .. => 2
  | .peer => 3

/-- The n-th trigger write that waits is the next to be taken (R265). -/
def State.trigFirst (s : State) (n : Nat) (src : TrigFrom) : Bool :=
  s.fe.triggers.zipIdx.all fun p => decide (src.rank < p.1.2.2.rank) || (src.rank == p.1.2.2.rank && decide (n ≤ p.2))

/-- TRIGGER_WRITE (R263, R265, R298): the n-th trigger write that has arrived is taken, when no other that waits goes before it. The scheduler
takes none, and starts and works on nothing, while a crash of Nymen has stopped the front end (log 59). -/
def execTriggerWrite (n : Nat) (s : State) : Host.Outcome State Fault Refusal :=
  match s.fe.triggers[n]? with
  | none => .next s
  | some (ctx, v, src) =>
    if s.trigFirst n src && !s.fe.stopped then
      .next ({ s with fe := { s.fe with triggers := s.fe.triggers.eraseIdx n } }.takeTrigger ctx v src)
    else .next s

/-- GRAPH_RUN_START (R264, R265): a run whose last write waited ends; the held trigger starts once no run is in progress. -/
def execGraphRunStart (ctx gid : Nat) (s : State) : Host.Outcome State Fault Refusal :=
  let k := gkey ctx gid
  match s.graph k with
  | none => .next s
  | some g =>
    if s.fe.stopped || g.fault.isSome || (g.held.map fun h => h.fault.isSome).getD false then .next s
    else match g.run with
      | some run => .next (if run.atEnd then s.endRun ctx k g run else s)
      | none => .next (s.tryTrigger ctx k)

/-- GRAPH_NODE_COMPLETE (R264, R267): a COPY, SIGNAL or EMPTY node that is at work completes. A RUN node completes with its
GDONE or its launch. -/
def execGraphNodeComplete (ctx gid node : Nat) (s : State) : Host.Outcome State Fault Refusal :=
  .next (if s.fe.stopped then s else s.workNode ctx (gkey ctx gid) node)

end Sys2Proof.Machine
end

