-- ==== Sys2Proof/Machine/Queue.lean ====
section
/-! DEFINITION. Work queues and the front end (R250 to R256), the packets (R254), the start and the end of a launch (R259,
R260), and the mapping of queues (R282). -/
namespace Sys2Proof.Machine

/-! ### Slots and descriptors -/

/-- A queue slot. -/
def State.slot (s : State) (k : Nat) : QSlot := s.fe.slots.get k {}

/-- Replace a queue slot. -/
def State.setSlot (s : State) (k : Nat) (q : QSlot) : State := { s with fe := { s.fe with slots := s.fe.slots.set k q {} } }

/-- The queue-table entry of a queue. -/
def State.queue (s : State) (qid : Nat) : QEntry := s.peers.queues.get qid {}

/-- Replace a queue-table entry. -/
def State.setQueue (s : State) (qid : Nat) (e : QEntry) : State :=
  { s with peers := { s.peers with queues := s.peers.queues.set qid e {} } }

/-- The queue-table entry of the queue in a slot. -/
def State.slotQueue (s : State) (q : QSlot) : QEntry := s.queue (q.qid.getD 0)

/-- An 8-byte field of a queue descriptor (R250). A descriptor that is not aligned to 64 is read where it lies (log 28). -/
def State.desc (s : State) (e : QEntry) (off : Nat) : Nat := s.mastWord (e.descPa.toNat + off) 8

/-- Write an 8-byte field of a queue descriptor. -/
def State.setDesc (s : State) (e : QEntry) (off : Nat) (v : W64) : State :=
  s.physWrite (e.descPa.toNat + off) (leBytes 8 v.toNat)

/-- A descriptor is invalid (R250, code 9). -/
def State.descBad (s : State) (e : QEntry) : Bool :=
  let sz := s.mastWord (e.descPa.toNat + 8) 1
  s.desc e 0 % 64 != 0 || decide (sz < 6) || decide (24 < sz) || s.mastWord (e.descPa.toNat + 9) 7 != 0 ||
    s.mastWord (e.descPa.toNat + 48) 16 != 0

/-- SIZEL. -/
def State.sizel (s : State) (e : QEntry) : Nat := s.mastWord (e.descPa.toNat + 8) 1

/-- The words between the parse position of a slot and PROD. -/
def State.avail (s : State) (q : QSlot) : Nat := s.desc (s.slotQueue q) 16 - q.pos.toNat

/-! ### Parsing -/

/-- The virtual address of word `i` of the packet at which a slot stands (R250, R255). -/
def State.wordVa (s : State) (q : QSlot) (i : Nat) : Nat :=
  match q.ibs with
  | f :: _ => f.va + 4 * i
  | [] =>
    let e := s.slotQueue q
    s.desc e 0 + 4 * ((q.pos.toNat + i) % 2 ^ s.sizel e)

/-- Read words `i` to `i + n - 1` of the packet at which a slot stands. Each is read as its packet is parsed: of the two values of a word that a
producer rewrites below PROD, which R251 leaves open, this is the one that memory then holds (log 28). -/
def State.feWords (ctx : Nat) (q : QSlot) : Nat → Nat → State → State × List W32 × AccEnd
  | 0, _, s => (s, [], .ok)
  | n + 1, i, s =>
    match s.vaRead ctx (s.wordVa q i) 4 [] with
    | (s, bs, .ok) =>
      let (s, t, e) := State.feWords ctx q n (i + 1) s
      (s, BitVec.ofNat 32 (leNat bs) :: t, e)
    | (s, _, e) => (s, [], e)

/-- The COUNT that R254 gives a type. -/
def pktCount (type : Nat) : Option Nat :=
  match type with
  | 1 => some 9 | 2 => some 3 | 3 => some 4 | 4 => some 5 | 5 => some 4 | 6 => some 2 | _ => none

/-- What the front end finds at a slot: nothing to do yet; a packet that stops the queue with a code; an access that
faults; or a packet with its payload. -/
inductive Found where
  | idle
  | stop (type code : Nat)
  | fault (va cause level : Nat)
  | packet (type : Nat) (count : Nat) (words : List W32)
  deriving DecidableEq, Repr, Inhabited

/-- Whether a slot can be served at all. -/
def State.servable (s : State) (k : Nat) : Bool :=
  let q := s.slot k
  q.qid.isSome && !(s.work (q.qid.getD 0)).stopped && q.fault.isNone && q.waitmem.isNone && !s.fe.stopped && (!q.unmapping || !q.ibs.isEmpty)

/-- The front end looks at the next packet of a slot (R251, R253 to R255). PROD is read as an acquire, which waits for the rest of a release (R187).
Where no packet fails, the TYPE of the error record is 0 (log 28). -/
def State.find (s : State) (k : Nat) : State × Found :=
  let q := s.slot k
  let e := s.slotQueue q
  let avail := match q.ibs with | f :: _ => f.left | [] => s.avail q
  if q.ibs.isEmpty && s.descBad e then (s, .stop 0 9)
  else if q.ibs.isEmpty && s.relOpen (fun _ => true) [(e.descPa.toNat + 16, 8)] then (s, .idle)
  else if q.ibs.isEmpty && decide (2 ^ s.sizel e < s.desc e 16 - s.desc e 24) then (s, .stop 0 6)
  else if avail = 0 then (s, .idle)
  else match State.feWords e.ctx q 1 0 s with
  | (s, [h], .ok) =>
    let type := (fld h 24 8).toNat
    let count := (fld h 0 16).toNat
    if fld h 16 7 != 0 || decide (6 < type) then (s, .stop type 1)
    else if (pktCount type).isSome && pktCount type != some count then (s, .stop type 2)
    else if avail < 1 + count then (s, if q.ibs.isEmpty then .idle else .stop type 4)
    else if flag h 23 && (!(s.work (q.qid.getD 0)).launches.isEmpty || !(s.work (q.qid.getD 0)).runs.isEmpty) then (s, .idle)
    else if type = 0 then (s, .packet 0 count [])
    else match State.feWords e.ctx q count 1 s with
      | (s, ws, .ok) => (s, .packet type count ws)
      | (s, _, .fault va c l) => (s, .fault va c l)
      | (s, _, .room) => (s, .idle)
      | (s, _, _) => (s, .stop type 7)
  | (s, _, .fault va c l) => (s, .fault va c l)
  | (s, _, .room) => (s, .idle)
  | (s, _, _) => (s, .stop 0 7)

/-- What is in progress at a slot is given up when its queue stops. -/
def QSlot.halt (qid : Nat) (q : QSlot) : QSlot :=
  if q.qid = some qid then { q with picked := false, got := [], wrote := 0 } else q

/-- A queue stops, mapped or not (R256): ERR is written and event 2 is posted. -/
def State.stopQueue (s : State) (qid type code depth : Nat) (word : W64) : State :=
  let err : W64 := BitVec.ofNat 64 (word.toNat % 2 ^ 32 * 2 ^ 32 + depth % 8 * 2 ^ 16 + type % 256 * 256 + code % 256)
  let s := (s.setDesc (s.queue qid) 40 err).setWork qid { s.work qid with stopped := true }
  let s := { s with fe := { s.fe with slots := s.fe.slots.map fun (p : Nat × QSlot) => (p.1, p.2.halt qid) } }
  s.post 2 (okey 0 qid) (BitVec.ofNat 64 qid) err

/-- A queue stops at the packet at which it stands. -/
def State.stopHere (s : State) (k type code : Nat) : State :=
  s.stopQueue ((s.slot k).qid.getD 0) type code (s.slot k).ibs.length (s.slot k).pos

/-- An access of the front end faults (R240, R254). -/
def State.slotFault (s : State) (k va cause level : Nat) (write : Bool) : State :=
  let q := s.slot k
  (s.setSlot k { q with fault := some s.nextFault, picked := false }).addFault
    (ioFault (s.slotQueue q).ctx va cause level write 0 .main 0 (.slot k))

/-- CONS is written past the outermost packet of `n` words (R251). -/
def State.advanceCons (s : State) (k n : Nat) : State :=
  let q := s.slot k
  let pos := q.pos + BitVec.ofNat 64 n
  (s.setSlot k { q with pos }).setDesc (s.slotQueue q) 24 pos

/-- Indirect buffers whose words have all been consumed return (R255). -/
def popIbs : List IbFrame → List IbFrame
  | [] => []
  | f :: t => if f.left = 0 then popIbs t else f :: t

/-- The packet of `n` words at which a slot stands has been dispatched. The outermost IB packet has 4 words. -/
def State.advance (s : State) (k n : Nat) : State :=
  let q := { s.slot k with picked := false, got := [], wrote := 0, lastServed := s.time }
  match q.ibs with
  | [] => (s.setSlot k q).advanceCons k n
  | f :: t =>
    let l := popIbs (⟨f.va + 4 * n, f.left - n⟩ :: t)
    let s := s.setSlot k { q with ibs := l }
    if l.isEmpty then s.advanceCons k 4 else s

/-- Serve a picked slot whose next packet has type `type` (R252); a packet that stops the queue is served with NOP. -/
def State.serve (s : State) (k type : Nat) (act : State → QEntry → Nat → List W32 → State) : Host.Outcome State Fault Refusal :=
  if s.servable k && (s.slot k).picked then
    match s.find k with
    | (s, .packet t n ws) => if t = type then .next (act s (s.slotQueue (s.slot k)) (n + 1) ws) else .next s
    | (s, .stop t c) => if type = t ∨ (type = 0 ∧ 6 < t) then .next (s.stopHere k t c) else .next s
    | (s, .fault va c l) => .next (s.slotFault k va c l false)
    | (s, .idle) => .next s
  else .next s

/-! ### Packets -/

/-- QUEUE_NOP (R254); a packet of a reserved type stops the queue here (R256). -/
def execQueueNop (slot : Nat) (s : State) : Host.Outcome State Fault Refusal :=
  s.serve slot 0 fun s _ n _ => s.advance slot n

/-- LAUNCH (R254, R257, R258): a valid launch waits to start, and the front end goes on. A launch of a context that is being terminated is given
up, as those are that wait when the termination begins (R297, log 34). -/
def execLaunch (slot : Nat) (s : State) : Host.Outcome State Fault Refusal :=
  s.serve slot 1 fun s e n ws =>
    if s.launchBad e.ctx ws false then s.stopHere slot 1 5
    else if s.isEnding e.ctx then s.advance slot n
    else
      let q := s.slot slot
      let qid := q.qid.getD 0
      let id := s.fe.nextLaunch
      let s := s.pend e.ctx ws (some qid) none [] none none
      let s := { s with fe := { s.fe with pending := s.fe.pending.map fun (p : PendLaunch) =>
        if p.id = id then { p with word := q.pos, depth := q.ibs.length } else p } }
      (s.setWork qid { s.work qid with launches := (s.work qid).launches ++ [id] }).advance slot n

/-- IB (R255). -/
def execIb (slot : Nat) (s : State) : Host.Outcome State Fault Refusal :=
  s.serve slot 2 fun s _ n ws =>
    let q := s.slot slot
    let va := (payPair ws 0).toNat
    let len := (payWord ws 2).toNat
    if len = 0 ∨ 2 ^ 20 < len ∨ va % 4 ≠ 0 then s.stopHere slot 2 2
    else if 4 ≤ q.ibs.length then s.stopHere slot 2 3
    else
      let outer := match q.ibs with
        | [] => []
        | f :: t => ⟨f.va + 4 * n, f.left - n⟩ :: t
      s.setSlot slot { q with ibs := ⟨va, len⟩ :: outer, picked := false, lastServed := s.time }

/-- SIGNAL (R254). -/
def execSignal (slot : Nat) (s : State) : Host.Outcome State Fault Refusal :=
  s.serve slot 3 fun s e n ws =>
    let va := (payPair ws 0).toNat
    if va % 8 ≠ 0 then s.stopHere slot 3 2
    else match s.vaWrite e.ctx va (leBytes 8 (payPair ws 2).toNat) 0 with
      | (s, _, .ok) => s.advance slot n
      | (s, _, .fault va c l) => s.slotFault slot va c l true
      | (s, _, .room) => s
      | (s, _, _) => s.stopHere slot 3 7

/-- The condition of WAITMEM (R254). -/
def waitHolds (word ref : W64) (cmp : Nat) : Bool :=
  match cmp with
  | 0 => !word.ult ref
  | 1 => word == ref
  | _ => word != ref

/-- The read of a WAITMEM: it succeeds, or the slot goes on waiting (R254, R404). It is an acquire, which waits for the rest of a release (R187). -/
def State.waitRead (s : State) (k ctx va : Nat) (ref : W64) (cmp : Nat) : State :=
  if (s.peekLeaf ctx none va).any fun x => s.relOpen (fun _ => true) [(x.pa, 8)] then s
  else match s.vaRead ctx va 8 [] with
  | (s, bs, .ok) =>
    let q := s.slot k
    if waitHolds (BitVec.ofNat 64 (leNat bs)) ref cmp then (s.setSlot k { q with waitmem := none }).advance k 6
    else s.setSlot k { q with waitmem := some (va, ref, cmp), picked := false }
  | (s, _, .fault va c l) => s.slotFault k va c l false
  | (s, _, .room) => s
  | (s, _, _) => (s.setSlot k { s.slot k with waitmem := none }).stopHere k 4 7

/-- WAITMEM (R254). -/
def execWaitmem (slot : Nat) (s : State) : Host.Outcome State Fault Refusal :=
  s.serve slot 4 fun s e _ ws =>
    let va := (payPair ws 0).toNat
    let cmp := (payWord ws 4).toNat
    if va % 8 ≠ 0 ∨ 2 < cmp then s.stopHere slot 4 2 else s.waitRead slot e.ctx va (payPair ws 2) cmp

/-- WAITMEM_POLL (R254, R404): the word is read again. -/
def execWaitmemPoll (slot : Nat) (s : State) : Host.Outcome State Fault Refusal :=
  let q := s.slot slot
  match q.waitmem with
  | some (va, ref, cmp) =>
    if q.fault.isNone && !(s.work (q.qid.getD 0)).stopped && !s.fe.stopped && (!q.unmapping || !q.ibs.isEmpty) then
      .next (s.waitRead slot (s.slotQueue q).ctx va ref cmp)
    else .next s
  | none => .next s

/-- GRAPHLOAD (R254, R262): it waits for a run of the GID that is in progress or held. The codes for a GID above 255 and for more than 16 MiB are
the model's (log 28). -/
def execGraphload (slot : Nat) (s : State) : Host.Outcome State Fault Refusal :=
  s.serve slot 5 fun s e n ws =>
    let va := (payPair ws 0).toNat
    let bytes := (payWord ws 2).toNat
    let gid := (payWord ws 3).toNat
    let k := gkey e.ctx gid
    if 255 < gid then s.stopHere slot 5 2
    else if ((s.graph k).map fun g => g.run.isSome || g.held.isSome).getD false then s
    else if 2 ^ 24 < bytes then s.stopHere slot 5 8
    else match s.vaRead e.ctx va bytes (s.slot slot).got with
      | (s, got, .ok) =>
        match parseGraph got (s.schedSpace k) with
        | some g => (s.setGraph k (some { g with left := ((s.graph k).map Graph.left).getD [] })).advance slot n
        | none => s.stopHere slot 5 8
      | (s, got, .fault va c l) => (s.setSlot slot { s.slot slot with got }).slotFault slot va c l false
      | (s, got, .room) => s.setSlot slot { s.slot slot with got }
      | (s, _, _) => s.stopHere slot 5 7

/-- GRAPHRUN (R254, R263): the trigger write is on its way. -/
def execGraphrun (slot : Nat) (s : State) : Host.Outcome State Fault Refusal :=
  s.serve slot 6 fun s e n ws =>
    let run := s.fe.nextRun
    let qid := (s.slot slot).qid.getD 0
    let s := s.setWork qid { s.work qid with runs := (s.work qid).runs ++ [run] }
    ({ s with fe := { s.fe with nextRun := run + 1 } }.arrive e.ctx (payPair ws 0) (TrigFrom.queue qid run)).advance slot n

/-- QUEUE_RESTART (R256): Nymen restarts a stopped queue at CONS. -/
def execQueueRestart (qid : Nat) (s : State) : Host.Outcome State Fault Refusal :=
  if s.nymenUp && (s.work qid).stopped then
    let s := s.setWork qid { s.work qid with stopped := false }
    match s.fe.slots.find? fun p => p.2.qid == some qid with
    | some (k, q) =>
      .next (s.setSlot k { q with
        ibs := [], waitmem := none, got := [], wrote := 0, fault := none, pos := BitVec.ofNat 64 (s.desc (s.queue qid) 24) })
    | none => .next s
  else .next s

/-! ### Launches -/

/-- Replace a pending launch. -/
def State.setPend (s : State) (p : PendLaunch) : State :=
  { s with fe := { s.fe with pending := s.fe.pending.map fun (q : PendLaunch) => if q.id = p.id then p else q } }

/-- A pending launch fails with a code (R259, R267): its queue stops, with CONS where it stands by then (log 28), or its node fails. -/
def State.failPend (s : State) (p : PendLaunch) (code : Nat) : State :=
  let s := { s with fe := { s.fe with pending := s.fe.pending.filter fun (q : PendLaunch) => q.id != p.id } }
  match p.node with
  | some (k, i) => s.runNodeEnd p.ctx k i p.id true false []
  | none => match p.queue with
    | some q => (s.setWork q { s.work q with launches := (s.work q).launches.filter (· != p.id) }).stopQueue q 1 code p.depth p.word
    | none => s

/-- The address of a launch's data image: SNAPVA for a node that is executed again from its snapshot (R267). -/
def PendLaunch.dataVa (p : PendLaunch) : Nat := (p.dva.getD (payPair p.words 5)).toNat

/-- Whether a launch loads a data image. -/
def PendLaunch.loads (p : PendLaunch) : Bool := payLoadD p.words || p.dva.isSome

/-- An image load of a launch faults (R240, R259). -/
def State.loadFault (s : State) (p : PendLaunch) (va cause level : Nat) (write : Bool) : State :=
  (s.setPend { p with fault := some s.nextFault }).addFault
    (ioFault p.ctx va cause level write (p.pos.getD 0) (payStrm p.words) 0 (.load p.id))

/-- The snapshot of a launch's node has been copied (R267). -/
def State.snapDone (s : State) (p : PendLaunch) : State :=
  match p.node with
  | none => s
  | some (k, i) =>
    let mark : Option Nat := if s.logged p.ctx then some (s.recOf p.ctx).interval else none
    let note (u : GRun) : GRun :=
      if (u.nodes[i]?).any (NodeState.runs p.id) && !u.snapped i then { u with snaps := (i, mark) :: u.snaps } else u
    s.setGraph k ((s.graph k).map fun g => g.mapRuns note)

/-- The images of a launch are read, and its snapshot is written (R259 step 2, R267); none once the launch waits or has
failed. -/
def State.loadImages (s : State) (p : PendLaunch) : State × Option PendLaunch :=
  let l := p.words
  match (if payLoadT l then s.vaRead p.ctx (payPair l 2).toNat (64 * payTlen l) p.text else (s, [], .ok)) with
  | (s, text, .ok) =>
    match (if p.loads || p.snap.isSome then s.vaRead p.ctx p.dataVa (payDlen l) p.data else (s, [], .ok)) with
    | (s, data, .ok) =>
      let p := { p with text, data }
      match p.snap with
      | none => (s, some p)
      | some va => match s.vaWrite p.ctx va.toNat data p.wrote with
        | (s, _, .ok) => (s.snapDone p, some { p with data := if p.loads then data else [], wrote := data.length })
        | (s, wrote, .fault va c lv) => (s.loadFault { p with wrote } va c lv true, none)
        | (s, wrote, .room) => (s.setPend { p with wrote }, none)
        | (s, _, _) => (s.failPend p 7, none)
    | (s, data, .fault va c lv) => (s.loadFault { p with text, data } va c lv false, none)
    | (s, data, .room) => (s.setPend { p with text, data }, none)
    | (s, _, _) => (s.failPend p 7, none)
  | (s, text, .fault va c lv) => (s.loadFault { p with text } va c lv false, none)
  | (s, text, .room) => (s.setPend { p with text }, none)
  | (s, _, _) => (s.failPend p 7, none)

/-- The data image of a launch lands in every member's scratchpad (R259 step 2); for one of logged writes it stops before a line that a
member's log cannot take, until a recovery point empties the log (R300). The state, and whether all of it has landed. -/
def State.land (s : State) (p : PendLaunch) (lead : Nat) : State × Bool :=
  let cs := gangCores lead (paySize p.words)
  let left := p.data.length - p.landed
  let m := if s.logged p.ctx then cs.foldl (fun m c => min m (landRoom p.ctx (s.core c) p.landed m)) left else left
  let s := cs.foldl (State.landData p.ctx p.landed ((p.data.drop p.landed).take m)) s
  if m = left then (s, true) else (cs.foldl (State.coreLogFull p.ctx) (s.setPend { p with landed := p.landed + m }), false)

/-- LAUNCH_START (R25, R258, R259, R268): once its streams are free, a launch takes its position, loads its images and starts; one that has become
invalid fails with code 5. None starts in a context that is being terminated (R297): what a hardware error has executed again waits (R267). -/
def execLaunchStart (id : Nat) (s : State) : Host.Outcome State Fault Refusal :=
  match s.fe.pending.find? fun p => p.id == id with
  | none => .next s
  | some p =>
    if p.fault.isSome || s.fe.stopped || s.isEnding p.ctx then .next s
    else if s.startBad p then .next (s.failPend p 5)
    else match s.position p with
      | none => .next s
      | some (lead, cur) =>
        if numCores ≤ lead then .fault .noSuchCore
        else
          let s := match cur with
            | some c => { s with fe := { s.fe with cursors := s.fe.cursors.set (s.ctx p.ctx).partition c 0 } }
            | none => s
          let p := { p with pos := some lead }
          let s := s.setPend p
          match s.loadImages p with
          | (s, some p) => match s.land p lead with
            | (s, true) => .next ((s.startLaunch p lead).joinDomains id)
            | (s, false) => .next s
          | (s, none) => .next s

/-- LAUNCH_COMPLETE (R260): every member has halted and every operation of its streams has retired; or the launch has been
terminated and its dispatched D operations have finished (R297). A saved launch has not ended. -/
def execLaunchComplete (id : Nat) (s : State) : Host.Outcome State Fault Refusal :=
  let rs := s.launchStreams id
  match s.launchInfo id with
  | none => .next s
  | some l =>
    match l.ended with
    | some hard => if rs.all fun r => !(s.stream r).busy then .next (s.endLaunch id true hard) else .next s
    | none =>
      if rs.length == l.gsize && rs.all fun r => (s.stream r).run == .halted && !(s.stream r).busy && (s.stream r).ckpt.isNone then
        .next (s.endLaunch id false false)
      else .next s

/-! ### Mapping -/

/-- QUEUE_MAP (R282). The queue begins as no partition's running candidate (R270). -/
def execQueueMap (qid slot : Nat) (s : State) : Host.Outcome State Fault Refusal :=
  let e := s.queue qid
  if s.nymenUp ∧ qid < 4096 ∧ slot < 64 ∧ e.valid ∧ e.slot = none ∧ (s.slot slot).qid = none then
    let s := s.setQueue qid { e with slot := some slot }
    let s := { s.setDesc e 32 0 with
      mast := { s.mast with parts := s.mast.parts.update (fun p => if p.current = some slot then { p with current := none } else p) {} } }
    .next (s.setSlot slot { qid := some qid, pos := BitVec.ofNat 64 (s.desc e 24), lastServed := s.time })
  else .next s

/-- QUEUE_UNMAP (R282): the switch cycle. The front end goes on until it has returned from the indirect buffers it is in (R251). -/
def execQueueUnmap (qid : Nat) (s : State) : Host.Outcome State Fault Refusal :=
  let e := s.queue qid
  match (if s.nymenUp then e.slot else none) with
  | some k =>
    let q := s.slot k
    .next ((s.setQueue qid { e with slot := none }).setSlot k { q with unmapping := true, picked := q.picked && !q.ibs.isEmpty })
  | none => .next s

/-- QUEUE_UNMAP_COMPLETE (R282): at a packet boundary the front end writes CONS, reads PEND and PROD, and posts event 1
when there is work, then event 3. -/
def execQueueUnmapComplete (slot : Nat) (s : State) : Host.Outcome State Fault Refusal :=
  let q := s.slot slot
  match q.qid with
  | some qid =>
    if q.unmapping && (q.ibs.isEmpty || (s.work qid).stopped) && q.fault.isNone then
      let e := s.queue qid
      let s := s.setDesc e 24 q.pos
      let s := s.setSlot slot {}
      let work := s.desc e 32 % 2 == 1 || decide (q.pos.toNat < s.desc e 16)
      let s := if work then s.post 1 (okey 0 qid) (BitVec.ofNat 64 qid) 0 else s
      .next (s.post 3 (okey 0 qid) (BitVec.ofNat 64 qid) (BitVec.ofNat 64 slot))
    else .next s
  | none => .next s

end Sys2Proof.Machine
end

