-- ==== Sys2Proof/Machine/Policy.lean ====
section
/-! DEFINITION. Scheduling policies: their instruction set, the checks at load, and the picks (R252, R270 to R272). -/
namespace Sys2Proof.Machine

/-! ### Policy words -/

/-- OP of a policy word. -/
def polOp (w : W32) : Nat := (fld w 26 6).toNat
/-- HD. -/
def polD (w : W32) : Nat := (fld w 22 4).toNat
/-- HA. -/
def polA (w : W32) : Nat := (fld w 18 4).toNat
/-- HB. -/
def polB (w : W32) : Nat := (fld w 14 4).toNat
/-- IMM. -/
def polImm (w : W32) : Nat := (fld w 0 14).toNat

/-- The fields that the form of an OP uses (R270): HD, HA, HB, IMM; none for an OP that is not listed. -/
def polForm (op : Nat) : Option (Bool × Bool × Bool × Bool) :=
  if op = 0x01 then some (true, false, false, true)
  else if 0x02 ≤ op ∧ op ≤ 0x0A then some (true, true, true, false)
  else if op = 0x0B then some (true, true, false, true)
  else if op = 0x10 then some (true, true, false, true)
  else if op = 0x11 ∨ op = 0x12 ∨ op = 0x14 ∨ op = 0x15 then some (true, false, false, true)
  else if op = 0x13 then some (false, true, false, true)
  else if 0x20 ≤ op ∧ op ≤ 0x23 then some (false, true, true, true)
  else if op = 0x3F then some (false, true, false, false)
  else none

/-- Cost of a word. -/
def polCost (w : W32) : Nat := if polOp w = 0x14 ∨ polOp w = 0x15 then 64 else 1

/-- The checks of R271 on word `i` of `n` that concern the word alone. -/
def polWordOk (n i : Nat) (w : W32) : Bool :=
  let op := polOp w
  let m := polImm w
  match polForm op with
  | none => false
  | some (d, a, b, im) =>
    (d || polD w == 0) && (a || polA w == 0) && (b || polB w == 0) && (im || m == 0) &&
      (!(op == 0x10 || op == 0x14 || op == 0x15) || decide (m ≤ 5)) && (!(op == 0x11) || decide (m ≤ 3)) &&
      (!(op == 0x12 || op == 0x13) || decide (m < 16)) &&
      (!(decide (0x20 ≤ op) && decide (op ≤ 0x23)) || decide (i + 1 + m < n))

/-- The greatest cost of a path from each word to its end: that of the words given, first word first (R271). A word that is
no RET goes on to the next word or to its branch target. -/
def polCosts : List W32 → List Nat
  | [] => []
  | w :: t =>
    let l := polCosts t
    let rest :=
      if polOp w = 0x3F then 0
      else if 0x20 ≤ polOp w ∧ polOp w ≤ 0x23 then max (l.getD 0 0) (l.getD (polImm w) 0)
      else l.getD 0 0
    (polCost w + rest) :: l

/-- R271: whether a policy is accepted. -/
def polOk (l : List W32) : Bool :=
  decide (1 ≤ l.length) && decide (l.length ≤ 256) && (l.zipIdx.all fun p => polWordOk l.length p.2 p.1) &&
    (l.getLast?.map polOp) == some 0x3F && decide ((polCosts l).getD 0 0 ≤ 4096)

/-! ### A run -/

/-- A candidate: its slot and its fields 0 to 5 (R270). -/
structure Cand where
  slot : Nat
  fields : List Nat
  deriving DecidableEq, Repr, Inhabited

/-- Whether a candidate is RUNNABLE. -/
def Cand.runnable (c : Cand) : Bool := c.fields.getD 5 0 == 1

/-- The index of the runnable candidate for which `better` holds against every one before it; all ones if none. -/
def argBest (better : Nat → Nat → Bool) (f : Nat) (l : List Cand) : W64 :=
  let r := l.zipIdx.foldl (fun (m : Option (Nat × Nat)) p =>
    if !p.1.runnable then m
    else
      let v := p.1.fields.getD f 0
      match m with
      | none => some (p.2, v)
      | some (_, w) => if better v w then some (p.2, v) else m) none
  match r with
  | some (i, _) => BitVec.ofNat 64 i
  | none => BitVec.allOnes 64

/-- The arithmetic of OP 0x02 to 0x0A. -/
def polAlu (op : Nat) (a b : W64) : W64 :=
  match op with
  | 0x02 => a + b | 0x03 => a - b | 0x04 => a &&& b | 0x05 => a ||| b | 0x06 => a ^^^ b
  | 0x07 => a <<< (fld b 0 6).toNat | 0x08 => a >>> (fld b 0 6).toNat
  | 0x09 => if b.ult a then b else a
  | _ => if a.ult b then b else a

/-- The condition of a branch. -/
def polCond (op : Nat) (a b : W64) : Bool :=
  match op with
  | 0x20 => a == b
  | 0x21 => a != b
  | 0x22 => a.ult b
  | _ => !a.ult b

/-- A run of a policy from word `pc` (R270): the state words and the result. -/
def polRun (prog : List W32) (cands : List Cand) (ev : List W64) : Nat → Nat → SMap W64 → SMap W64 → SMap W64 × W64
  | 0, _, _, st => (st, 0)
  | fuel + 1, pc, h, st =>
    match prog[pc]? with
    | none => (st, 0)
    | some w =>
      let a := h.get (polA w) 0
      let b := h.get (polB w) 0
      let m := polImm w
      let put (v : W64) : SMap W64 := h.set (polD w) v 0
      let go (h : SMap W64) (st : SMap W64) : SMap W64 × W64 := polRun prog cands ev fuel (pc + 1) h st
      let simm : W64 := (fld w 0 14).signExtend 64
      match polOp w with
      | 0x01 => go (put simm) st
      | 0x0B => go (put (a + simm)) st
      | 0x10 => go (put (BitVec.ofNat 64 (((cands[a.toNat]?).map fun c => c.fields.getD m 0).getD 0))) st
      | 0x11 => go (put (ev.getD m 0)) st
      | 0x12 => go (put (st.get (m % 16) 0)) st
      | 0x13 => go h (st.set (m % 16) a 0)
      | 0x14 => go (put (argBest (fun v w => decide (v < w)) m cands)) st
      | 0x15 => go (put (argBest (fun v w => decide (w < v)) m cands)) st
      | 0x3F => (st, a)
      | op =>
        if 0x20 ≤ op ∧ op ≤ 0x23 then polRun prog cands ev fuel (if polCond op a b then pc + 1 + m else pc + 1) h st
        else go (put (polAlu op a b)) st

/-! ### Partitions and candidates -/

/-- A partition. -/
def State.part (s : State) (n : Nat) : Partition := s.mast.parts.get n {}

/-- Replace a partition. -/
def State.setPart (s : State) (n : Nat) (p : Partition) : State :=
  { s with mast := { s.mast with parts := s.mast.parts.set n p {} } }

/-- RUNNABLE: the front end finds something to do at a slot; a queue that waits in a WAITMEM, or whose next packet waits for SYNC, is not runnable
(log 37). -/
def State.runnable (s : State) (k : Nat) : Bool := s.servable k && (s.find k).2 != .idle

/-- The microseconds for which slot `k` has been served since its queue was mapped, those since the last pick included when it is the running
candidate of a partition (R270, log 37). -/
def State.served (s : State) (p : Partition) (k : Nat) : Nat :=
  (s.slot k).servedUs + if p.current = some k then s.time - p.since else 0

/-- The candidates of a partition: its mapped slots in ascending order, one that is to be unmapped until it has returned from its indirect
buffers (R252, R270, R282). -/
def State.cands (s : State) (part : Nat) : List Cand :=
  let mine (p : Nat × QSlot) : Bool := p.2.qid.isSome && (!p.2.unmapping || !p.2.ibs.isEmpty) && (s.ctx (s.slotQueue p.2).ctx).partition == part
  (s.fe.slots.filter mine).map fun p =>
    let e := s.slotQueue p.2
    { slot := p.1
      fields := [(s.ctx e.ctx).rank.toNat, min (s.desc e 16 - s.desc e 24) (2 ^ 32 - 1), s.time - p.2.lastServed, s.served (s.part part) p.1,
        (s.part part).weight.toNat, if s.runnable p.1 then 1 else 0] }

/-- The default choice (R272): highest RANK, greatest AGE, lowest index. -/
def defaultPick (l : List Cand) : Option Nat :=
  (l.zipIdx.foldl (fun (m : Option (Nat × Nat × Nat)) p =>
    if !p.1.runnable then m
    else
      let r := p.1.fields.getD 0 0
      let a := p.1.fields.getD 2 0
      match m with
      | none => some (p.2, r, a)
      | some (_, r', a') => if r' < r ∨ (r' = r ∧ a' < a) then some (p.2, r, a) else m) none).map (·.1)

/-- The policy of a partition runs for an event of KIND `kind` (R270): its state words and its result. Without a policy the
result is all ones. CUR is all ones when no candidate runs. -/
def State.runPolicy (s : State) (part kind : Nat) : State × W64 :=
  let p := s.part part
  let l := s.cands part
  let cur := match p.current with
    | some k => match l.findIdx? fun c => c.slot == k with
      | some i => BitVec.ofNat 64 i
      | none => BitVec.allOnes 64
    | none => BitVec.allOnes 64
  if p.policy.isEmpty then (s, BitVec.allOnes 64)
  else
    let (st, v) := polRun p.policy l [BitVec.ofNat 64 kind, BitVec.ofNat 64 l.length, cur, BitVec.ofNat 64 s.time]
      p.policy.length 0 [] p.policyState
    (s.setPart part { p with policyState := st }, v)

/-- The time in which the running candidate of a partition was served counts as SERVED from now on; no slot is picked then. -/
def State.endService (s : State) (part : Nat) : State :=
  let p := s.part part
  let s := match p.current with
    | some k =>
      let q := s.slot k
      if q.qid.isSome then s.setSlot k { q with picked := false, servedUs := s.served p k } else s
    | none => s
  s.setPart part { p with current := none, since := s.time }

/-- A pick (R252, R270, R272): the slot chosen is served next. -/
def State.pick (s : State) (part : Nat) : State :=
  let (s, v) := s.runPolicy part 0
  let l := s.cands part
  let i := match l[v.toNat]? with
    | some c => if c.runnable then some v.toNat else defaultPick l
    | none => defaultPick l
  let s := s.endService part
  match i.bind fun i => l[i]? with
  | none => s
  | some c =>
    (s.setSlot c.slot { s.slot c.slot with picked := true }).setPart part { s.part part with current := some c.slot }

/-! ### The meanings -/

/-- POLICY_PICK (R252, R270, R272). A stopped front end picks nothing. -/
def execPolicyPick (part : Nat) (s : State) : Host.Outcome State Fault Refusal :=
  .next (if s.fe.stopped then s else s.pick part)

/-- POLICY_ENQUEUE (R270): Nymen, while it runs, runs the policy for the enqueue of a mapped queue that has been accepted; its result is
ignored. An enqueue during a crash waits for the thaw (R298). -/
def execPolicyEnqueue (part : Nat) (qid : Nat) (s : State) : Host.Outcome State Fault Refusal :=
  if !s.nymenUp then .next s else
  match s.fe.slots.find? fun p => p.2.qid == some qid && p.2.ready with
  | some (k, q) =>
    if (s.ctx (s.slotQueue q).ctx).partition = part then .next ((s.setSlot k { q with ready := false }).runPolicy part 1).1
    else .next s
  | none => .next s

/-- POLICY_TIME_SLICE (R270), by Nymen while it runs: a nonzero result starts a new pick. -/
def execPolicyTimeSlice (part : Nat) (s : State) : Host.Outcome State Fault Refusal :=
  if !s.nymenUp || (s.part part).policy.isEmpty then .next s
  else
    let (s, v) := s.runPolicy part 2
    .next (if v ≠ 0 ∧ !s.fe.stopped then s.pick part else s)

/-- POLICY_LOAD (R270, R271): an accepted policy starts with state words of zero; a rejected one changes nothing. -/
def execPolicyLoad (part : Nat) (words : List W32) (s : State) : Host.Outcome State Fault Refusal :=
  .next (if s.nymenUp && polOk words then s.setPart part { s.part part with policy := words, policyState := [] } else s)

end Sys2Proof.Machine
end

