-- ==== Sys2Proof/Machine/Notify.lean ====
section
/-! DEFINITION. Notify records (R279 to R281, R361), the doorbells (R284) and trigger writes of peers (R263). -/
namespace Sys2Proof.Machine

/-- A saturating 32-bit counter. -/
def satInc (c : W32) : W32 := if c = BitVec.allOnes 32 then c else c + 1

/-- NotifyAccept (R280) on the 32 bytes of a record (R279). -/
def State.notifyAccept (s : State) (bs : List Byte) : State :=
  let f (off n : Nat) : Nat := leNat ((bs.drop off).take n)
  let qid := f 0 2
  if 4096 ≤ qid then { s with peers := { s.peers with badQid := s.peers.badQid + 1 } }
  else
    let e := s.queue qid
    if !e.valid || (hmacSha256 e.key (bs.take 24)).take 8 != (bs.drop 24).take 8 then
      s.setQueue qid { e with badTag := satInc e.badTag }
    else if f 16 8 ≤ e.lastSeq.toNat then s.setQueue qid { e with stale := satInc e.stale }
    else
      let e := { e with lastSeq := BitVec.ofNat 64 (f 16 8) }
      let s := s.setQueue qid e
      let s := s.setDesc e 16 (BitVec.ofNat 64 (max (s.desc e 16) (f 8 8)))
      match e.slot with
      | some k => s.setSlot k { s.slot k with ready := true }
      | none =>
        let pend : W64 := BitVec.ofNat 64 (s.desc e 32)
        (s.setDesc e 32 ((pend &&& 1) ||| 1)).post 1 (okey 0 qid) (BitVec.ofNat 64 qid) 0

/-- Whether a peer-table entry is accepted for a NOTIFY (R283). -/
def State.notifyEntryOk (s : State) (entry : Nat) : Bool := peerValid (s.peers.table.get entry [])

/-- How a NOTIFY stands (R213, R281, R361): it ends with a status that needs no sending, it goes to the own engine, to a peer, waits for
room in the egress buffer, or waits until the context's released writes have been sent. -/
inductive NotifyWay where
  | bad (status : Nat)
  | own
  | peer (entry : Nat)
  | full
  | wait
  deriving DecidableEq, Repr, Inhabited

/-- The way of a NOTIFY with operand `d` (R281, R178, R300, R361). -/
def State.notifyWay (s : State) (r : SRef) (d : W64) : NotifyWay :=
  let a := (fld d 0 25).toNat
  let entry := (fld d 32 8).toNat
  if a % 32 ≠ 0 ∨ 0x17FFFFF < a then .bad 12
  else if !flag d 40 && !s.notifyEntryOk entry then .bad 12
  else if !dInSets (s.stream r) a 32 false then .bad 23
  else if flag d 40 then .own
  else if s.protected (s.stream r).owner && decide (s.egressRoom < 32) then .full
  else if !s.protected (s.stream r).owner && s.inEgress (s.stream r).owner then .wait
  else .peer entry

/-- What a NOTIFY sends (R283): a 32-byte write to the peer's doorbell over UALink, a message to resource index 0 over Ultra Ethernet. -/
def State.notifyMsg (s : State) (entry : Nat) (bytes : List Byte) : PeerMsg :=
  let e := s.peers.table.get entry []
  match peerDest e none with
  | .uet ports job faddr _ tc mode => .message (.uet ports job faddr 0 tc mode) bytes
  | d => .write d (leNat ((e.drop 8).take 8)) bytes

/-- A NOTIFY acts and completes; `status` is what its token gets when a peer has been sent the record. -/
def State.notifyRun (s : State) (r : SRef) (o : Op) (d : W64) (status : Nat) : State :=
  match s.notifyWay r d with
  | .bad c => s.dRetire r o c
  | .own => (s.notifyAccept o.data).dRetire r o 0
  | .peer e => (s.toPeer (s.stream r).owner true 32 (s.notifyMsg e o.data)).dRetire r o status
  | .full => (s.noRoom (s.stream r).owner 3).haltOp r o false
  | .wait => s

/-! ### Records and triggers that arrive -/

/-- A request that never reaches device memory is answered at once (R284): it takes a request number and its answer leaves. -/
def State.answerNow (s : State) (stn link : Nat) (bytes : List Byte) : State :=
  { s with peers := { s.peers with
      nextReq := s.peers.nextReq + 1, outbox := s.peers.outbox ++ [.answer stn link s.peers.nextReq bytes] } }

/-- A station's doorbell page, 4 KiB at DBVA, holds an address (R284). A DBVA of all ones, its value until Nymen sets it, names no page (log 2). -/
def inDoorbell (st : Station) (va : Nat) : Bool :=
  st.dbva != BitVec.allOnes 64 && decide (st.dbva.toNat ≤ va) && decide (va < st.dbva.toNat + 4096)

/-- A peer's write to the doorbell page of a station (R284): 32 bytes at offset 0, aligned to 32, are a record; any other write to the page is
discarded. Either is acknowledged. -/
def State.doorbellIn (s : State) (stn link : Nat) (va : W64) (bytes : List Byte) : State :=
  let st := s.peers.stations.get stn {}
  if inDoorbell st va.toNat then
    (if va = st.dbva ∧ va.toNat % 32 = 0 ∧ bytes.length = 32 then s.notifyAccept bytes else s).answerNow stn link []
  else s

/-- UALINK_DOORBELL_WRITE (R280, R284). -/
def execUalinkDoorbellWrite (u : UaLink) (va : W64) (bytes : List Byte) (s : State) : Host.Outcome State Fault Refusal :=
  .next (s.doorbellIn u.stn u.link va bytes)

/-- A message to resource index 0 (R284): one of 32 bytes is a record; any other is dropped and counted. -/
def execUetNotifyMessage (bytes : List Byte) (s : State) : Host.Outcome State Fault Refusal :=
  if bytes.length = 32 then .next (s.notifyAccept bytes)
  else .next { s with peers := { s.peers with badLen := s.peers.badLen + 1 } }

/-- The context of a station's partition whose TRIGVA is `va` (R284, R296). -/
def State.trigCtx (s : State) (stn : Nat) (va : Nat) : Option Nat :=
  let st := s.peers.stations.get stn {}
  st.ctxs.find? fun c =>
    let e := s.ctx c
    e.partition == st.partition && e.trigVa != BitVec.allOnes 64 && decide (e.trigVa.toNat = va)

/-- A peer's write to a TRIGVA (R263, R284): 8 aligned bytes are a trigger write on its way; any other write is
discarded. Either is acknowledged. -/
def State.triggerIn (s : State) (stn link : Nat) (va : W64) (bytes : List Byte) : State :=
  match s.trigCtx stn va.toNat with
  | some ctx =>
    (if bytes.length = 8 ∧ va.toNat % 8 = 0 then
      s.arrive ctx (BitVec.ofNat 64 (leNat bytes)) TrigFrom.peer
     else s).answerNow stn link []
  | none => s

/-- UALINK_TRIGGER_WRITE (R263, R284). -/
def execUalinkTriggerWrite (u : UaLink) (va : W64) (bytes : List Byte) (s : State) : Host.Outcome State Fault Refusal :=
  .next (s.triggerIn u.stn u.link va bytes)

/-- NOTIFY_ACK_TIMEOUT (R281): the peer has not acknowledged a record within 1 ms of its sending: status 22. A record that is
held in egress or goes to the own engine awaits no acknowledgement. -/
def execNotifyAckTimeout (r : SRef) (id : Nat) (s : State) : Host.Outcome State Fault Refusal :=
  if r.core < numCores then
    match s.dOp r id with
    | some o => match o.body with
      | .notify d =>
        if s.dReady r o && !tokensBad (s.stream r) o && !flag d 40 && !s.protected (s.stream r).owner then
          .next (s.notifyRun r o d 22)
        else .next s
      | _ => .next s
    | none => .next s
  else .fault .noSuchCore

end Sys2Proof.Machine
end

