-- ==== Sys2Proof/Machine/Peer.lean ====
section
/-! DEFINITION. Requests of peers (R212, R216, R239, R284) and the sending of held egress (R213, R214). -/
namespace Sys2Proof.Machine

/-- Bytes that a request touches. -/
def PeerReq.size (q : PeerReq) : Nat :=
  match q.act with
  | .read n => n
  | .write bs => bs.length
  | .atomic wide .. => if wide then 8 else 4

/-- Whether a request reads or writes. -/
def PeerReq.rights (q : PeerReq) : Bool × Bool :=
  match q.act with
  | .read _ => (true, false)
  | .write _ => (false, true)
  | .atomic .. => (true, true)

/-- Whether a request touches an SO page, as its pages translate now (R212); a page that does not translate yet counts as none (log 26). -/
def State.peerSO (s : State) (q : PeerReq) : Bool :=
  (pagesOf q.va.toNat q.size).any fun va => ((s.peekLeaf q.ctx none va).map fun x => leafOrd x.leaf == 0).getD false

/-- An earlier request of the same link to SO pages of the context has yet to take effect (R212). -/
def State.peerWaits (s : State) (q : PeerReq) : Bool :=
  s.peerSO q && s.peers.reqs.any fun p => decide (p.n < q.n) && p.stn == q.stn && p.link == q.link && p.ctx == q.ctx && s.peerSO p

/-- A request to an SO page reads as an acquire: it waits for a release some of whose bytes it would read (R183, R187). -/
def State.peerAcqWaits (s : State) (q : PeerReq) (l : List (Nat × Nat)) : Bool := s.hasHalves && s.peerSO q && s.relOpen (fun _ => true) l

/-- A line of an uncommitted interval (R216). -/
def State.uncommitted (s : State) (pa n : Nat) : Bool :=
  s.recov.any fun p => s.protected p.1 && (linesOf pa n).any fun l => p.2.log.any fun e => e.1 == 64 * l

/-- The new value of a peer atomic on `w` bytes (R212); its maximum and minimum are signed, as in R191. -/
def peerNew (op : PeerOp) (w : Nat) (old : Nat) (opnd cmp : W64) : Nat :=
  let m := 2 ^ (8 * w)
  let x := opnd.toNat % m
  let so := (BitVec.ofNat (8 * w) old).toInt
  let sx := (BitVec.ofNat (8 * w) x).toInt
  match op with
  | .add => (old + x) % m
  | .and => old &&& x
  | .or => old ||| x
  | .xor => old ^^^ x
  | .max => if so < sx then x else old
  | .min => if sx < so then x else old
  | .swap => x
  | .cas => if old = cmp.toNat % m then x else old

/-- A request is finished: it leaves, and its answer goes to the peer. -/
def State.peerDone (s : State) (q : PeerReq) (bs : List Byte) : State :=
  { s with peers := { s.peers with
      reqs := s.peers.reqs.filter fun p => p.n != q.n
      outbox := s.peers.outbox ++ [.answer q.stn q.link q.n bs] } }

/-- Replace a request. -/
def State.setPeer (s : State) (q : PeerReq) : State :=
  { s with peers := { s.peers with reqs := s.peers.reqs.map fun p => if p.n = q.n then q else p } }

/-- What is left of a peer's read or write, page by page, from where it stands (R240). A read that waits has counted no line (R242). -/
def State.peerPages : Nat → State → PeerReq → State
  | 0, s, q => s.peerDone q q.got
  | fuel + 1, s, q =>
    let va := q.va.toNat + q.moved
    let n := q.size - q.moved
    if n = 0 then s.peerDone q q.got
    else match s.translate q.ctx none va q.rights.1 q.rights.2 with
      | (s, .error (c, l)) =>
        (s.setPeer { q with fault := some s.nextFault }).addFault (ioFault q.ctx va c l q.rights.2 0 .main 3 (.peer q.n))
      | (s, .ok x) =>
        let m := min n x.left
        if leafEgr x.leaf ≠ 0 then s.peerDone q []
        else
          let t := s.countAccess q.ctx none va m x.leaf
          match q.act with
          | .read _ =>
            if s.uncommitted x.pa m || s.marked none (fun scope _ => decide (5 ≤ scope)) [(x.pa, m)] || s.peerAcqWaits q [(x.pa, m)] then s.setPeer q
            else State.peerPages fuel t { q with moved := q.moved + m, got := q.got ++ s.memRead (leafKey x.leaf) x.pa m }
          | .write bs =>
            if s.hasMarks && s.locked none [(x.pa, m)] then s.setPeer q else
            State.peerPages fuel (t.peerWriteMem (leafKey x.leaf) x.pa ((bs.drop q.moved).take m)) { q with moved := q.moved + m }
          | .atomic wide op opnd cmp =>
            let w := if wide then 8 else 4
            if s.marked none (fun scope _ => decide (5 ≤ scope)) [(x.pa, w)] || s.locked none [(x.pa, w)] || s.peerAcqWaits q [(x.pa, w)] then s else
            let s := t
            let old := s.memRead (leafKey x.leaf) x.pa w
            (s.peerWriteMem (leafKey x.leaf) x.pa (leBytes w (peerNew op w (leNat old) opnd cmp))).peerDone q old

/-- A request is tried: it is answered, suspended at a page (R239), or waits (R212, R216). A request outside the bounds, or a
misaligned atomic, has no effect; one that has moved bytes goes on without a bounds check (R230, R240). -/
def State.peerTry (s : State) (q : PeerReq) : State :=
  let aligned := match q.act with | .atomic wide .. => q.va.toNat % (if wide then 8 else 4) == 0 | _ => true
  if q.fault.isSome || s.peerWaits q then s
  else if !aligned || (q.moved == 0 && !s.boundsOk q.ctx q.va.toNat q.size q.rights.1 q.rights.2) then s.peerDone q []
  else State.peerPages (q.size / 4096 + 3) s q

/-- A new request. -/
def State.peerAdd (s : State) (stn link ctx : Nat) (va : W64) (act : PeerAct) : State × PeerReq :=
  let q : PeerReq := { n := s.peers.nextReq, stn, link, ctx, va, act }
  ({ s with peers := { s.peers with reqs := s.peers.reqs ++ [q], nextReq := q.n + 1 } }, q)

/-- Whether a station's translation context names a context. -/
def State.stationHas (s : State) (stn ctx : Nat) : Bool := (s.peers.stations.get stn {}).ctxs.contains ctx

/-- PEER_WRITE (R212, R216, R284): the doorbell page and TRIGVA take it before translation; else it is written. -/
def execPeerWrite (u : UaLink) (ctx : Nat) (va : W64) (bytes : List Byte) (s : State) : Host.Outcome State Fault Refusal :=
  if inDoorbell (s.peers.stations.get u.stn {}) va.toNat then .next (s.doorbellIn u.stn u.link va bytes)
  else if (s.trigCtx u.stn va.toNat).isSome then .next (s.triggerIn u.stn u.link va bytes)
  else if s.stationHas u.stn ctx then
    let (s, q) := s.peerAdd u.stn u.link ctx va (.write bytes)
    .next (s.peerTry q)
  else .next s

/-- PEER_READ (R212, R216, R284): the request waits for its answer; a read of the doorbell page returns zeros. -/
def execPeerRead (u : UaLink) (ctx : Nat) (va : W64) (len : Nat) (s : State) : Host.Outcome State Fault Refusal :=
  if inDoorbell (s.peers.stations.get u.stn {}) va.toNat then .next (s.answerNow u.stn u.link (List.replicate len 0))
  else if s.stationHas u.stn ctx then .next (s.peerAdd u.stn u.link ctx va (.read len)).1
  else .next s

/-- PEER_READ_ANSWER (R212, R216): a request that waits is tried. -/
def execPeerReadAnswer (n : Nat) (s : State) : Host.Outcome State Fault Refusal :=
  match s.peers.reqs.find? fun q => q.n == n with
  | some q => .next (s.peerTry q)
  | none => .next s

/-- PEER_ATOMIC (R192, R212, R216). On the doorbell page and on a TRIGVA it is discarded as any other write, and reads zeros (R284, log 27). -/
def execPeerAtomic (u : UaLink) (ctx : Nat) (va : W64) (wide : Bool) (op : PeerOp) (opnd cmp : W64) (s : State) :
    Host.Outcome State Fault Refusal :=
  if inDoorbell (s.peers.stations.get u.stn {}) va.toNat || (s.trigCtx u.stn va.toNat).isSome then
    .next (s.answerNow u.stn u.link (List.replicate (if wide then 8 else 4) 0))
  else if s.stationHas u.stn ctx then
    let (s, q) := s.peerAdd u.stn u.link ctx va (.atomic wide op opnd cmp)
    .next (s.peerTry q)
  else .next s

/-- EGRESS_SEND (R213, R214): the context's first write in the egress buffer leaves when it has been released. -/
def execEgressSend (ctx : Nat) (s : State) : Host.Outcome State Fault Refusal :=
  match s.egress.find? fun e => e.ctx == ctx with
  | some e =>
    if e.released then
      .next { s with
        egress := s.egress.eraseIdx (s.egress.findIdx fun e => e.ctx == ctx)
        peers := { s.peers with outbox := s.peers.outbox ++ [e.msg] } }
    else .next s
  | none => .next s

end Sys2Proof.Machine
end

