-- ==== Sys2Proof/Machine/Copy.lean ====
section
/-! DEFINITION. The steps of the copy engine: how D operations complete, fault and are resumed (R164, R165, R190 to R192,
R211 to R224, R230, R238 to R242, R266, R281, R300, R329, R338, R342, R345, R381, R382). -/
namespace Sys2Proof.Machine

/-- Whether an operation is a copy command. -/
def OpBody.isCopy : OpBody → Bool
  | .cpy .. => true
  | _ => false

/-- COPY_COMPLETE of a copy command: its bytes have moved, or it ends with an error (R223, R224, R338). -/
def State.copyComplete (s : State) (r : SRef) (o : Op) : State :=
  if tokensBad (s.stream r) o then s.dRetire r o 7
  else match s.dAttempt r o with
    | (s', o', .done c) => s'.dRetire r o' c
    | (s', o', .halted c) => s'.haltOp r o' c
    | (s', o', .wait) => s'.setDOp r o'
    | (_, _, .fault ..) => s

/-- COPY_COMPLETE of a stream copy (R225, R226, R338): it completes when it has been taken whole, when its last byte has been
discarded, or at once with the error of its checks. -/
def State.streamComplete (s : State) (r : SRef) (o : Op) : State :=
  let ctx := (s.stream r).owner
  match o.body with
  | .cpy k d0 d1 _ ord =>
    let fresh := o.segs.isNone
    if o.stage = .bound then s.dRetire r { o with moved := 1 } 0
    else if tokensBad (s.stream r) o then s.dRetire r { o with moved := 0 } 7
    else if fresh && (copyBad k d1 ord || s.peerBad r [(d0.toNat, (fld d1 32 25).toNat)]) then
      s.dRetire r { o with moved := 0 } 12
    else if fresh && !s.boundsOk ctx d0.toNat (fld d1 32 25).toNat true false then s.dRetire r { o with moved := 0 } 13
    else if o.stage = .started then
      match s.dAttempt r o with
      | (s', o', .done c) => s'.dRetire r { o' with moved := 1 } c
      | _ => s
    else s
  | _ => s

/-- COPY_COMPLETE (R338). -/
def execCopyComplete (r : SRef) (id : Nat) (s : State) : Host.Outcome State Fault Refusal :=
  if r.core < numCores then
    match s.dOp r id with
    | some o =>
      if o.body.isCopy && s.dReady r o then
        .next (if o.body.isStreamCopy then s.streamComplete r o else s.copyComplete r o)
      else .next s
    | none => .next s
  else .fault .noSuchCore

/-- What a D operation other than a copy, a CBAR or a CRED does when it acts. -/
def State.dComplete (s : State) (r : SRef) (o : Op) : State :=
  let bad := tokensBad (s.stream r) o
  match o.body with
  | .tokj => s.dRetire r o (if bad then 7 else 0)
  | .cpy .. => s
  | .cbar _ => if bad then s.dRetire r o 7 else s
  | .cred .. => if bad then s.dRetire r o 7 else if o.sent && !o.after.any s.credOpen then s.dRetire r o o.status else s
  | .atom .. =>
    if bad then s.dRetire r o 7
    else match s.dAttempt r o with
      | (s', o', .done c) => s'.dRetire r o' c
      | (s', o', .halted c) => s'.haltOp r o' c
      | (s', o', .wait) => s'.setDOp r o'
      | (_, _, .fault ..) => s
  | .fence .. => s.dRetire r o (if bad then 7 else 0)
  | .gdone d =>
    if bad then s.dRetire r o 7
    else
      let (s, c) := s.gdone r (fld d 0 8).toNat
      s.dRetire r o c
  | .gtrig d =>
    if bad then s.dRetire r o 7
    else if o.sent then s
    else (s.setDOp r { o with sent := true }).arrive (s.stream r).owner d (TrigFrom.stream r o.id)
  | .notify d => if bad then s.dRetire r o 7 else s.notifyRun r o d 0
  | _ => s

/-- D_OPERATION_COMPLETE (R164, R165). -/
def execDOperationComplete (r : SRef) (id : Nat) (s : State) : Host.Outcome State Fault Refusal :=
  if r.core < numCores then
    match s.dOp r id with
    | some o => if s.dReady r o then .next (s.dComplete r o) else .next s
    | none => .next s
  else .fault .noSuchCore

/-! ### Acting early -/

/-- The scratchpad bytes that an operation of the copy engine reads (`write` false) or writes: first byte, bytes. -/
def spadRanges (o : Op) (write : Bool) : List (Nat × Nat) :=
  match o.body with
  | .cpy k _ d1 _ _ => ((copySpad k d1).filter fun p => p.2.2 == write).map fun p => (p.1, p.2.1)
  | .atom ret _ c op =>
    let (w, ow) := atomWidths op
    if write then (if ret then [((fld c 25 25).toNat, atomNum c * w)] else [])
    else [((fld c 0 25).toNat, atomNum c * ow)]
  | _ => []

/-- Whether an operation's pages all translate to local memory. -/
def State.allLocal (s : State) (r : SRef) (o : Op) : Bool :=
  (s.opPages r o).all fun p => match p.2 with | some x => leafEgr x.leaf == 0 | none => false

/-- A fence between an earlier write and `o` leaves the pair open: without .SC when `o` reads, the read part of an ATOMR included (R188, R201);
and toward every agent outside its scope when the scope is narrower than the package (R188, R189). -/
def fenceOpen (f o : Op) : Bool :=
  match f.body with
  | .fence scope sc => decide (scope.toNat < 4) || (!sc && o.body.readsDev)
  | _ => false

/-- Whether a fence is an SC fence. -/
def OpBody.isSC : OpBody → Bool
  | .fence _ sc => sc
  | _ => false

/-- Whether `o` may act before the earlier write `p`, with the fences `fs` between them as far as they stand after `p` and the unfinished operations
`es` before `o` (R186, R188, R189, R201). `p` could read its source now: its tokens are set, and no earlier operation has yet to write there. `o` writes no
byte that `p` writes, since the coherence order of a byte agrees with precedence, and under .SC it reads none. Of an ATOMR only the write is
passed: its read is made first, so it may act now, and nothing writes its targets until it has; a context whose writes are logged, which may have to stop before
that (R300), passes none. No other ATOMR that has been passed or is passed with it holds the targets of `p`, which would keep both waiting. -/
def State.passable (s : State) (r : SRef) (o : Op) (fs es ps : List Op) (p : Op) : Bool :=
  p.body.writesDev && s.allLocal r p && tokensSet (s.stream r) p && !tokensBad (s.stream r) p && p.fault.isNone && !p.halted &&
    (p.src.isSome || es.all fun e => decide (p.id ≤ e.id) || !meet (spadRanges p false) (spadRanges e true)) &&
    !s.locked (some (r, p.id)) (s.physExtents r p) &&
    (!p.body.readsDev || ps.all fun e => e.id == p.id || !e.body.readsDev || !meet (s.physExtents r e) (s.physExtents r p)) &&
    (!p.body.readsDev || (!s.logged (s.stream r).owner && s.dReady r p)) &&
    (!meet (s.physExtents r p) (s.physExtents r o) ||
      (!o.body.writesDev && fs.all fun f => !(f.body.isSC && decide (p.id < f.id))))

/-- An operation has done all that it does, and its token waits (R167, R201). -/
def Op.spent (o : Op) (spad : SMap Byte) : Bool := o.begun && (o.left spad).isEmpty

/-- The writes that the copy or atomic `o`, or the parts of it that it has left, passes when it acts now: each stands before a fence that leaves the
pair open; nothing else holds `o` back. None when `o` may not act (R187 to R189, R201, log 26). -/
def State.mayPass (s : State) (r : SRef) (o : Op) : Option (List Op) :=
  let st := s.stream r
  let es := (earlier o.id st.dq).filter fun e => !e.spent (s.core r.core).spad
  let fs := es.filter fun e => e.body.isFence
  let ps := es.filter fun e => e.body.accesses && fs.any fun f => decide (e.id < f.id)
  let able := (o.body.readsDev || o.body.writesDev) && !o.body.isStreamCopy && o.stage != .finished && tokensSet st o &&
    !tokensBad st o && o.fault.isNone && !o.halted && s.allLocal r o && !s.egressWait r o && !s.acqWaits r o fun _ => true
  let read := o.body.readsDev && s.marked (some (r, o.id)) (fun scope f => s.inScope scope f r) (s.physExtents r o)
  if able && !read && (es.all fun e => e.body.isFence || !s.directEdge r e o) && (fs.all fun f => fenceOpen f o) &&
      !(o.body.writesDev && s.locked (some (r, o.id)) (s.physExtents r o)) && ps.all (s.passable r o fs es ps) then some ps
  else none

/-- What a fence's scope still orders when `o` passes the writes `ps` before fence `f`: agents inside the scope do not read what `o` wrote, and under .SC not
what the passed writes are to write, before those have been made. -/
def State.passMark (s : State) (r : SRef) (o : Op) (ps : List Op) (f : Op) : EarlyMark :=
  let before := ps.filter fun p => decide (p.id < f.id)
  match f.body with
  | .fence scope sc =>
    { passed := before.map Op.id, scope := scope.toNat
      ranges := (if o.body.writesDev then s.physExtents r o else []) ++
        if sc && o.body.readsDev then before.flatMap (s.physExtents r) else [] }
  | _ => ⟨[], 0, [], []⟩

/-- The targets of a passed ATOMR are its own until it acts. -/
def State.lockMark (s : State) (r : SRef) (p : Op) : EarlyMark :=
  { passed := [p.id], scope := 0, ranges := [], lock := s.physExtents r p }

/-- A passed write has read its source in the scratchpad by the time at which it is passed (R167, R201). -/
def Op.capture (o : Op) (spad : SMap Byte) : Op :=
  { o with src := some (o.src.getD ((spadRanges o false).foldl (fun m p => writeBytes m p.1 (readBytes spad p.1 p.2)) [])) }

/-- The parts of an operation that `q` had left have been done with a status: it retires when that is an error or nothing is left, and stays in
its queue otherwise; so does one whose token has to wait (`late`). -/
def State.didParts (s : State) (r : SRef) (o q : Op) (spad : SMap Byte) (segs : Option (List (Nat × Nat × Nat))) (status : Nat) (late : Bool) :
    State :=
  let o := { o with segs, acted := o.acted ++ q.left spad }
  if status ≠ 0 ∨ ((o.left spad).isEmpty ∧ late = false) then s.dRetire r o status else s.setDOp r o

/-- What a copy command has left after the parts `did`, in pieces of 4 KiB pages and in the order of R223: first number, device address, bytes. -/
def restPieces (did : List (Nat × Nat)) : Nat → List (Nat × Nat × Nat) → List (Nat × Nat × Nat)
  | _, [] => []
  | pos, (va, n, _) :: t =>
    ((cutParts did (pos, n)).flatMap fun q => (pieces (va + (q.1 - pos)) q.2).map fun p => (q.1 + (p.1 - (va + (q.1 - pos))), p.1, p.2)) ++
      restPieces did (pos + n) t

/-- Piece `a` of a copy has to move before the later piece `b`: of an SO transfer, when they lie on different pages (R184); of a scatter, when they
share a byte of device memory (R220). -/
def State.pieceFirst (s : State) (r : SRef) (so scatter : Bool) (a b : Nat × Nat × Nat) : Bool :=
  let at_ (p : Nat × Nat × Nat) : Option Xlat := s.peekLeaf (s.stream r).owner (some r.core) p.2.1
  let pageEnd (p : Nat × Nat × Nat) : Nat := p.2.1 + ((at_ p).map Xlat.left).getD 0
  (so && pageEnd a != pageEnd b) || (scatter && meet (localBytes [(a.2.2, at_ a)]) (localBytes [(b.2.2, at_ b)]))

/-- The pages of some pieces translate, one after the other; none when one does not. -/
def State.translateAll (r : SRef) (store : Bool) : State → List (Nat × Nat × Nat) → Option State
  | s, [] => some s
  | s, p :: t => match s.translate (s.stream r).owner (some r.core) p.2.1 (!store) store with
    | (s, .ok _) => State.translateAll r store s t
    | (_, .error _) => none

/-- The state in which the parts of a copy command that `q` has left may move before what is left of it below them, since every page below them
translates (R223) and no piece there has to move first. Each element of an atomic is on its own. -/
def State.ahead (s : State) (r : SRef) (o q : Op) : Option State :=
  match o.body with
  | .cpy k d0 d1 _ _ =>
    let spad := (s.core r.core).spad
    let segs := o.extents spad k d0 d1
    let moves := restPieces q.did 0 segs
    let stays := restPieces (o.did ++ q.left spad) 0 segs
    let below := stays.filter fun a => moves.any fun b => decide (a.1 < b.1)
    if below.any fun a => moves.any fun b => decide (a.1 < b.1) && s.pieceFirst r (s.touchesSO r o) (k == .cpys) a b then none
    else State.translateAll r (isStore k d1) s below
  | _ => some s

/-- Turn.early: the parts `sel` of a copy or an atomic act before earlier operations of its stream that do not hold them back (R187 to R189,
R201). A CPYX acts as a whole. The token of one that writes waits for the writes that it has passed, which precede its own and so what its token
orders (R167, R188). -/
def earlyTurn (s : State) (r : SRef) (id : Nat) (sel : List (Nat × Nat)) : Host.Outcome State Fault Refusal :=
  if r.core < numCores then
    match s.dOp r id with
    | none => .next s
    | some o =>
      let spad := (s.core r.core).spad
      let q := o.only spad sel
      let whole : Bool := match o.body with | .cpy .cpyx .. => !sel.isEmpty | _ => false
      if whole || (q.left spad).isEmpty then .next s
      else match s.mayPass r q with
        | none => .next s
        | some ps => match (s.ahead r o q).map fun (u : State) => u.dAttempt r q with
          | some (s', q', .done c) =>
            let late := o.body.writesDev && !ps.isEmpty
            if late && c ≠ 0 then .next s else
            let marks := ((earlier o.id (s.stream r).dq).filter fun e => e.body.isFence).map (s.passMark r q ps)
            let locks := (ps.filter fun p => p.body.readsDev).map (s.lockMark r)
            let t := ps.foldl (fun t p => t.setDOp r (p.capture spad)) (s'.didParts r o q spad q'.segs c late)
            .next (t.updStream r fun st => { st with early := st.marks ++ marks ++ locks })
          | _ => .next s
  else .fault .noSuchCore

/-- Whether an operation of vM that is at work takes a stream copy (R226). -/
def feeding (st : Stream) (id : Nat) : Bool := st.mq.any fun m => m.stage == .started && m.feeds.contains id

/-- TRANSLATION_FAULT (R223, R231 to R239): an operation that meets a faulting page moves the bytes before it and is
suspended there with a fault record. A stream copy meets it while an operation takes its bytes, or while they are
discarded. -/
def execTranslationFault (r : SRef) (id : Nat) (s : State) : Host.Outcome State Fault Refusal :=
  if r.core < numCores then
    match s.dOp r id with
    | some o =>
      if s.dReady r o && !tokensBad (s.stream r) o && (!o.body.isStreamCopy || o.stage == .started || feeding (s.stream r) o.id) then
        match s.dAttempt r o with
        | (s', o', .fault va c l w) => .next (s'.suspend r o' va c l w)
        | _ => .next s
      else .next s
    | none => .next s
  else .fault .noSuchCore

/-! ### Answers to fault records -/

/-- A record leaves the fault buffer. -/
def State.closeFault (s : State) (n : Nat) : State := { s with faults := s.faults.filter fun f => f.n != n }

/-- Change the state of a node of the run of a graph. -/
def State.updGraph (s : State) (k : Nat) (f : Graph → Graph) : State := s.setGraph k ((s.graph k).map f)

/-- A node at work whose fault `n` is answered. -/
def unfault (n : Nat) : NodeState → NodeState
  | .busy got wrote f tries => .busy got wrote (if f = some n then none else f) tries
  | x => x

/-- What a fault record held goes on (R240). -/
def State.resumeFault (s : State) (f : FaultRec) : State :=
  let s := s.closeFault f.n
  match f.who with
  | .op r id => match s.dOp r id with
    | some o => s.setDOp r { o with fault := none }
    | none => s
  | .peer n => match s.peers.reqs.find? fun q => q.n == n with
    | some q => (s.setPeer { q with fault := none }).peerTry { q with fault := none }
    | none => s
  | .slot k => if (s.slot k).fault = some f.n then s.setSlot k { s.slot k with fault := none } else s
  | .load id => { s with fe := { s.fe with pending := s.fe.pending.map fun p => if p.id = id then { p with fault := none } else p } }
  | .graph ctx gid none => s.updGraph (gkey ctx gid) fun g =>
      { g with fault := none, held := g.held.map fun h => { h with fault := none } }
  | .graph ctx gid (some i) => s.updGraph (gkey ctx gid) fun g =>
      g.mapRuns fun u => { u with nodes := u.nodes.modify i (unfault f.n) }

/-- The TYPE of the packet at which a slot stands; 0 when its header cannot be read. -/
def State.slotType (s : State) (k : Nat) : Nat :=
  let q := s.slot k
  if q.waitmem.isSome then 4
  else match State.feWords (s.slotQueue q).ctx q 1 0 s with
    | (_, [h], .ok) => (fld h 24 8).toNat
    | _ => 0

/-- The write of DONEVA is given up; the run ends. -/
def State.dropDone (s : State) (ctx k : Nat) (g : Graph) : State :=
  match g.run with
  | none => s
  | some run => s.endRun ctx k { g with wrote := 8, fault := none } run

/-- What a fault record held is given up (R240, R254, R259, R262, R267): a command completes with status 14, a packet stops
its queue with code 7, a launch fails with it, a COPY node fails, a trigger is rejected, a completion word is not
written. A peer's request, which has no status 14, goes without an answer (log 27). -/
def State.abortFault (s : State) (f : FaultRec) : State :=
  let s := s.closeFault f.n
  match f.who with
  | .op r id => match s.dOp r id with
    | some o => s.dRetire r { o with fault := none } 14
    | none => s
  | .peer n => { s with peers := { s.peers with reqs := s.peers.reqs.filter fun q => q.n != n } }
  | .slot k =>
    let t := s.slotType k
    if (s.slot k).fault ≠ some f.n then s else (s.setSlot k { s.slot k with fault := none, waitmem := none }).stopHere k t 7
  | .load id => match s.fe.pending.find? fun p => p.id == id with
    | some p => s.failPend p 7
    | none => s
  | .graph ctx gid none =>
    let k := gkey ctx gid
    match s.graph k with
    | none => s
    | some g =>
      match g.held with
      | some h =>
        if h.fault.isSome then
          let s := (s.setGraph k (some { g with held := none })).endQueueRun h.src
          if h.fresh then s.answerTrig h.src 20 else s
        else s.dropDone ctx k g
      | none => s.dropDone ctx k g
  | .graph ctx gid (some i) => match (s.graph (gkey ctx gid)).bind fun g => g.runOf i (NodeState.works (some f.n)) with
    | some w => s.nodeEnd ctx (gkey ctx gid) i w true
    | none => s

/-- FAULT_RESUME (R240): the Mast's answer. -/
def execFaultResume (n : Nat) (s : State) : Host.Outcome State Fault Refusal :=
  match s.faults.find? fun f => f.n == n with
  | some f => .next (if s.nymenUp then s.resumeFault f else s)
  | none => .next s

/-- FAULT_ABORT (R240): the Mast's answer. -/
def execFaultAbort (n : Nat) (s : State) : Host.Outcome State Fault Refusal :=
  match s.faults.find? fun f => f.n == n with
  | some f => .next (if s.nymenUp then s.abortFault f else s)
  | none => .next s

/-! ### TLBs and access counters -/

/-- Whether a TLB entry survives an invalidation of a context, or of a range of it (R238). -/
def tlbKeeps (ctx : Nat) (range : Option (Nat × Nat)) (e : TlbEntry) : Bool :=
  e.ctx != ctx || match range with
    | none => false
    | some (va, n) => !overlaps e.va e.size va n

/-- TLB_INVALIDATE (R238). No access is ever half done between two steps. -/
def execTlbInvalidate (ctx : Nat) (range : Option (Nat × Nat)) (s : State) : Host.Outcome State Fault Refusal :=
  let keep := tlbKeeps ctx range
  .next { s with
    cores := s.cores.map fun (p : Nat × Core) => (p.1, { p.2 with tlb := p.2.tlb.filter keep })
    dies := s.dies.map fun (p : Nat × Die) => (p.1, { p.2 with tlb := p.2.tlb.filter keep }) }

/-- ACCESS_COUNTER_THRESHOLD (R242, R277): a counter that has reached ACTHR is cleared and event 7 is posted; the lines that one step counted
beyond ACTHR count from there on. -/
def execAccessCounterThreshold (die ctx block : Nat) (s : State) : Host.Outcome State Fault Refusal :=
  let d := s.die die
  let thr := (s.ctx ctx).acthr.toNat
  if 0 < thr ∧ d.counters.any (fun c => c.ctx == ctx && c.block == block && decide (thr ≤ c.count)) then
    let s := s.setDie die { d with counters := d.counters.map fun c =>
      if c.ctx = ctx ∧ c.block = block then { c with count := c.count - thr } else c }
    .next (s.counterEvent die ctx block)
  else .next s

end Sys2Proof.Machine
end

