-- ==== Sys2Proof/Machine/Barrier.lean ====
section
/-! DEFINITION. Barriers: CBAR and PHASE (R176 to R178, R197 to R200,
R203, R292, R335, R367). -/
namespace Sys2Proof.Machine

/-! ### Peer devices -/

/-- Peer devices that have participants in the domain learn that a stream has arrived at its k-th CBAR, or PHASE of a KIND (R203). -/
def State.tellPeers (s : State) (level : Nat) (m : Member) (k : Nat) (phase : Option Bool) : State :=
  if (s.remotesOf level m.st).isEmpty then s
  else s.send (.barrier ((m.st.launch.map LaunchInfo.group).getD 0) m.r k phase)

/-- What a peer device tells of a participant changes what is known of it (R203). -/
def remoteStep (id : Nat) (act : RemoteAct) (l : List Remote) : List Remote :=
  match act with
  | .join => if l.any fun p => p.id == id then l else l ++ [{ id }]
  | .cbar => l.map fun p => if p.id = id then { p with cbars := p.cbars + 1 } else p
  | .phase kind => l.map fun p => if p.id = id then { p with phases := p.phases ++ [kind] } else p
  | .leave => l.filter fun p => p.id != id

/-- Turn.remote: a message of a peer device of fabric group `group` arrives. -/
def remoteTurn (s : State) (group id : Nat) (act : RemoteAct) : Host.Outcome State Fault Refusal :=
  .next { s with peers := { s.peers with
    remotes := s.peers.remotes.set group (remoteStep id act (s.peers.remotes.get group [])) [] } }

/-- A completed instance with a participant outside a context of logged writes asks for a recovery point of that context
(R299); `far` says that participants on peer devices take part. -/
def State.markDue (s : State) (ctxs : List Nat) (far : Bool) : State :=
  if far || decide (1 < ctxs.eraseDups.length) then
    ctxs.eraseDups.foldl (fun s c => if s.logged c then s.setRec c { s.recOf c with due := true } else s) s
  else s

/-- The contexts of a list of streams. -/
def memberCtxs (l : List Member) : List Nat := l.map fun m => m.st.owner

/-! ### CBAR -/

/-- The first CBAR of a stream at a level that has been dispatched and has not completed. -/
def nextCbar (st : Stream) (level : Nat) : Option Op :=
  st.dq.find? fun o => o.body == .cbar level && o.stage != .finished

/-- The stream's next CBAR at a level has arrived and every earlier D operation of the stream has retired (R199, R335). -/
def cbarReady (st : Stream) (level : Nat) : Bool :=
  match nextCbar st level with
  | some o => tokensSet st o && !tokensBad st o && (earlier o.id st.dq).isEmpty
  | none => false

/-- The stream's CBAR completes: its token is set with status 0. -/
def cbarEnd (level : Nat) (st : Stream) : Stream :=
  match nextCbar st level with
  | some o =>
    let st := setGen st o.out 0 0
    { st with dq := st.dq.filter fun x => x.id != o.id
              sys := { st.sys with cbars := st.sys.cbars.set level (cbarCount st level + 1) 0 } }
  | none => st

/-- The barrier of a stream's next CBAR at a level completes once every participant has arrived. An instance that a participant has completed already
is complete, or that the domain had completed before the stream joined it: a late joiner that reaches it ends its CBAR alone, and waits for no other
(R197 to R199). -/
def State.cbarComplete (s : State) (level : Nat) (m : Member) : State :=
  let k := cbarCount m.st level
  let l := s.domain level m
  let rs := s.remotesOf level m.st
  if decide (k < (pastOf m.st level).cbars) || (l.any fun p => decide (k < cbarCount p.st level)) || rs.any fun p => decide (k + 1 < p.cbars) then
    (s.updPlace m.at_ (cbarEnd level)).markDue (memberCtxs l) (!rs.isEmpty)
  else if (rs.all fun p => decide (k < p.cbars)) && l.all fun p => cbarCount p.st level == k && cbarReady p.st level then
    (l.foldl (fun s p => s.updPlace p.at_ (cbarEnd level)) s).markDue (memberCtxs l) (!rs.isEmpty)
  else s

/-! ### Phases -/

/-- KIND of a PHASE value. -/
def phaseKind (w : PhaseWait) : Bool := flag w.value 31

/-- A PHASE has the KIND of the phase in progress (R200). -/
def sameKind (st : Stream) (w : PhaseWait) : Bool := st.regs.phase.active && st.regs.phase.kind == phaseKind w

/-- A stream's PHASE at a level has arrived: its engine operations have retired (R176, R200). -/
def phaseReady (st : Stream) (level : Nat) : Bool :=
  match st.phaseWait with
  | some w => w.level == level && !st.busyBefore w.before && !sameKind st w && st.traps.isEmpty
  | none => false

/-- KIND of the k-th PHASE of a stream at a level, which has arrived or completed. -/
def kindAt (st : Stream) (level k : Nat) : Bool :=
  match (st.regs.phase.kinds.get level [])[k]? with
  | some b => b
  | none => (st.phaseWait.map phaseKind).getD false

/-- A set entry of 16 bytes (R177): its PHASE number, whether a field is bad, and the entry. -/
def parseSet (bs : List Byte) : Nat × Bool × SetEntry :=
  let v := leNat bs
  let eng := v / 2 ^ 16 % 8
  let start := v / 2 ^ 32 % 2 ^ 25
  let len := v / 2 ^ 64 % 2 ^ 32
  (v % 2 ^ 16,
   v / 2 ^ 20 % 2 ^ 12 != 0 || v / 2 ^ 57 % 2 ^ 7 != 0 || v / 2 ^ 96 != 0 || decide (4 < eng) || len == 0 ||
     decide (0x1800000 < len) || decide (0x1800000 < start + len),
   ⟨eng, v / 2 ^ 19 % 2 == 1, start, len⟩)

/-- The entries of a phase from `a` on (R177): at most `fuel`, while the PHASE number stays, and none beyond the scratchpad (log 58). -/
def setList (rd : Nat → List Byte) (num : Nat) : Nat → Nat → List (Nat × Bool × SetEntry)
  | 0, _ => []
  | fuel + 1, a =>
    if !inSpad a 16 then []
    else
      let e := parseSet (rd a)
      if e.1 = num then e :: setList rd num fuel (a + 16) else []

/-- The sets of a phase, or none when R178 finds a fault. So does a list whose first entry lies beyond the scratchpad (log 58). -/
def phaseSets (c : Core) (w : Strm) (taddr : Nat) : Option (List SetEntry) :=
  if taddr % 16 ≠ 0 ∨ !inSpad taddr 16 then none
  else
    let rd (a : Nat) : List Byte := spadRead c w a 16
    let l := setList rd (parseSet (rd taddr)).1 64 taddr
    let es := l.map fun e => e.2.2
    if l.any (fun e => e.2.1) ||
        (es.any fun a => es.any fun b => a.write && a.eng != b.eng && overlaps a.start a.len b.start b.len) then none
    else some es

/-- The phase begins, unless its sets are at fault (R178). -/
def beginPhase (c : Core) (strm : Strm) (st : Stream) (w : PhaseWait) : Option Stream :=
  let ta := (fld w.value 0 25).toNat
  let ph := st.regs.phase
  let kinds := ph.kinds.set w.level (ph.kinds.get w.level [] ++ [phaseKind w]) []
  let go (sets : Option (List SetEntry)) : Option Stream :=
    some { st with phaseWait := none, regs := { st.regs with phase := { active := true, kind := phaseKind w, sets, kinds } } }
  if st.det && ta != 0 then
    match phaseSets c strm ta with
    | some l => go (some l)
    | none => none
  else go none

/-- One more PHASE of a level. -/
def addPhase (w : PhaseWait) (r : Regs) : Regs :=
  { r with phase := { r.phase with kinds := r.phase.kinds.set w.level (r.phase.kinds.get w.level [] ++ [phaseKind w]) [] } }

/-- A PHASE that has arrived and counts (R198, R200), also after the rollback of the fault that it raises: the checkpoint before it counts it
too (log 18). -/
def countPhase (w : PhaseWait) (st : Stream) : Stream := { st with regs := addPhase w st.regs, dup := addPhase w st.dup }

/-- The phase-set fault of the PHASE at which a stream waits (R178, R200). -/
def phaseFault (w : PhaseWait) (st : Stream) : Stream :=
  { st with traps := st.traps ++ [⟨8, 0, w.pc, st.bundleNo, BitVec.ofNat 3 ((st.launch.map (·.gpos)).getD 0)⟩] }

/-- A stream's PHASE, which has arrived, ends its wait: it begins, or raises the phase-set fault. It counts either way (R200). -/
def State.endPhase (s : State) (fault : Bool) (m : Member) : State :=
  match m.st.phaseWait with
  | none => s
  | some w =>
    if fault then s.updPlace m.at_ fun st => phaseFault w (countPhase w st)
    else match beginPhase (s.core m.r.core) m.r.strm m.st w with
      | some st => s.updPlace m.at_ fun _ => st
      | none => s.updPlace m.at_ fun st => phaseFault w (countPhase w st)

/-- The PHASE at which a stream waits: it faults before it arrives when its KIND is that of the phase in progress; it ends
for every participant once all have arrived, with a fault when their KINDs differ (R200); of an instance that is complete already, for a late joiner
alone (R197). -/
def State.phaseComplete (s : State) (level : Nat) (m : Member) (w : PhaseWait) : State :=
  if m.st.busyBefore w.before || !m.st.traps.isEmpty then s
  else if sameKind m.st w then s.updPlace m.at_ (phaseFault w)
  else
    let k := phaseCount m.st level
    let l := s.domain level m
    let rs := s.remotesOf level m.st
    let done := l.filter fun p => decide (k < phaseCount p.st level)
    let gone := rs.filter fun p => decide (k + 1 < p.phases.length)
    let past := (pastOf m.st level).phases[k]?
    let differs (l : List Member) (rs : List Remote) : Bool :=
      (l.any fun p => kindAt p.st level k != phaseKind w) || rs.any fun p => p.phases[k]? != some (phaseKind w)
    if past.isSome || !done.isEmpty || !gone.isEmpty then
      (s.endPhase (differs done gone || past.any fun l => l.any fun b => b != phaseKind w) m).markDue (memberCtxs l) (!rs.isEmpty)
    else if (rs.all fun p => decide (k < p.phases.length)) && l.all fun p => phaseCount p.st level == k && phaseReady p.st level then
      (l.foldl (fun s p => s.endPhase (differs l rs) p) s).markDue (memberCtxs l) (!rs.isEmpty)
    else s

/-! ### The meaning -/

/-- A stream that stands at its next CBAR of a level, or at a PHASE that has arrived, tells the peer devices of its group, once (R203). -/
def State.announce (s : State) (level : Nat) (m : Member) : State :=
  if cbarReady m.st level then
    match nextCbar m.st level with
    | some o =>
      if o.sent then s
      else (s.updPlace m.at_ fun st => { st with dq := st.dq.map fun x => if x.id = o.id then { x with sent := true } else x }).tellPeers level m
        (cbarCount m.st level) none
    | none => s
  else match m.st.phaseWait with
    | some w =>
      if phaseReady m.st level && !w.sent then
        (s.updPlace m.at_ fun st => { st with phaseWait := some { w with sent := true } }).tellPeers level m (phaseCount m.st level)
          (some (phaseKind w))
      else s
    | none => s

/-- The barrier at which a stream stands with its next CBAR at a level, or else with its PHASE. -/
def State.barrierStep (s : State) (level : Nat) (m : Member) : State :=
  if cbarReady m.st level then s.cbarComplete level m
  else match m.st.phaseWait with
    | some w => if w.level = level then s.phaseComplete level m w else s
    | none => s

/-- BARRIER_COMPLETE (R199, R200, R203): the barrier at which stream `r` stands with its next CBAR at the level, or else with its
PHASE; each of a running and a saved stream of one place, as the step before has left it. A stream that runs no launch is alone in its domain. Peer
devices of its fabric group first learn that it has arrived. -/
def execBarrierComplete (r : SRef) (level : Nat) (s : State) : Host.Outcome State Fault Refusal :=
  if r.core < numCores then
    let mine (s : State) : List Member := s.members.filter fun m => m.r == r
    let s := (mine s).foldl (fun s m => if (s.remotesOf level m.st).isEmpty then s else s.announce level m) s
    .next ((mine s).foldl (fun s m => ((s.memberAt m.at_).map (s.barrierStep level)).getD s) s)
  else .fault .noSuchCore

end Sys2Proof.Machine
end

