-- ==== Sys2Proof/Decode.lean ====
section
/-! DEFINITION. Reading slots and bundles from words (R92 to R111), total on any bytes and rejecting by name,
and below it the encoder. -/
namespace Sys2Proof

/-- Why a bundle is rejected before it issues (R111); `fillHeader` is no trap: fetch goes on at the next line
(R95). -/
inductive Reject where
  | fillHeader
  | crossesLine
  | badFill
  | unassigned
  | reserved
  | range
  | port
  | literal
  | svcNoCkpt
  | writeConflict
  deriving DecidableEq, Repr, Inhabited

/-- The subcode that the trap reports (R111). -/
def Reject.subcode : Reject → Nat
  | .fillHeader => 0 | .crossesLine => 1 | .badFill => 2 | .unassigned => 3 | .reserved => 4
  | .range => 5 | .port => 6 | .literal => 7 | .svcNoCkpt => 8 | .writeConflict => 9

/-- The guard fields of a slot word (R97). -/
def gd (w : W48) : Gd := ⟨flag w 47, fld w 43 4⟩

/-- The shared fields of an engine slot word (R98). -/
def eh (w : W48) : Eh := ⟨gd w, flag w 35, fld w 29 6, fld w 23 6, fld w 17 6, fld w 11 6⟩

/-- The forms of the K slot by opcode (R109); none for an unassigned opcode (R110). -/
def parseK (opc : Nat) (w : W48) : Option Instr :=
  match opc with
  | 0x01 => some (.br (gd w) (fld w 0 32))
  | 0x02 => some (.brk (gd w) (fld w 0 16))
  | 0x03 => some (.brx (gd w) ⟨flag w 35, fld w 27 8⟩)
  | 0x04 => some (.call (gd w) (fld w 32 4) (fld w 0 32))
  | 0x05 => some (.fmt (gd w) (if flag w 35 then .reg ⟨flag w 8, fld w 0 8⟩ else .imm (fld w 0 32)))
  | 0x06 => some (.halt (gd w))
  | 0x07 => some (.leave (gd w))
  | 0x08 => some (.lit (fld w 0 32))
  | 0x09 => some (.loop (gd w) (if flag w 35 then .reg ⟨flag w 34, fld w 26 8⟩ else .imm (fld w 19 16)) (fld w 0 19))
  | 0x0A => some (.mfs (gd w) (fld w 32 4) (fld w 0 12))
  | 0x0B => some (.mts (gd w) ⟨flag w 35, fld w 27 8⟩ (fld w 0 12))
  | 0x0C => some (.opp (gd w) (if flag w 35 then .reg ⟨flag w 8, fld w 0 8⟩ else .imm (fld w 0 32)))
  | 0x0D => some (.phase (gd w) (if flag w 35 then .reg ⟨flag w 8, fld w 0 8⟩ else .imm (fld w 0 32)))
  | 0x0E => some (.rcm (gd w) (if flag w 35 then .reg ⟨flag w 8, fld w 0 8⟩ else .imm (fld w 0 32)))
  | 0x0F => some (.ret (gd w) ⟨flag w 35, fld w 27 8⟩)
  | 0x10 => some (.stat (gd w) (fld w 32 4) (fld w 0 2))
  | 0x11 => some (.svc (gd w) (fld w 0 16))
  | 0x12 => some (.wait (gd w) (fld w 30 6) (fld w 24 6) (fld w 18 6) (fld w 12 6))
  | _ => none

/-- The forms of the A slot by opcode (R109); none for an unassigned opcode (R110). -/
def parseA (opc : Nat) (w : W48) : Option Instr :=
  match opc with
  | 0x01 => some (.add (gd w) (fld w 30 6) ⟨flag w 29, fld w 21 8⟩ ⟨flag w 20, fld w 12 8⟩ (flag w 11))
  | 0x02 => some (.addi (gd w) (fld w 30 6) ⟨flag w 29, fld w 21 8⟩ (flag w 20) (fld w 0 20))
  | 0x03 => some (.and (gd w) (fld w 30 6) ⟨flag w 29, fld w 21 8⟩ ⟨flag w 20, fld w 12 8⟩ (flag w 11))
  | 0x04 => some (.clz (gd w) (fld w 30 6) ⟨flag w 29, fld w 21 8⟩ (flag w 11))
  | 0x05 => some (.cmp (gd w) (fld w 32 4) ⟨flag w 31, fld w 23 8⟩ ⟨flag w 22, fld w 14 8⟩ (fld w 11 3) (flag w 10))
  | 0x06 => some (.div (gd w) (fld w 30 6) ⟨flag w 29, fld w 21 8⟩ ⟨flag w 20, fld w 12 8⟩ (flag w 11) (flag w 10))
  | 0x07 => some (.gand (gd w) (fld w 32 4) (flag w 31) (fld w 27 4) (flag w 26) (fld w 22 4))
  | 0x08 => some (.gnot (gd w) (fld w 32 4) (flag w 31) (fld w 27 4))
  | 0x09 => some (.gor (gd w) (fld w 32 4) (flag w 31) (fld w 27 4) (flag w 26) (fld w 22 4))
  | 0x0A => some (.ld (gd w) (fld w 30 6) ⟨flag w 29, fld w 21 8⟩ (fld w 19 2) (flag w 18) (fld w 0 18))
  | 0x0B => some (.max (gd w) (fld w 30 6) ⟨flag w 29, fld w 21 8⟩ ⟨flag w 20, fld w 12 8⟩ (flag w 11) (flag w 10))
  | 0x0C => some (.min (gd w) (fld w 30 6) ⟨flag w 29, fld w 21 8⟩ ⟨flag w 20, fld w 12 8⟩ (flag w 11) (flag w 10))
  | 0x0D => some (.movi (gd w) (fld w 30 6) (flag w 29) (fld w 0 29))
  | 0x0E => some (.mul (gd w) (fld w 30 6) ⟨flag w 29, fld w 21 8⟩ ⟨flag w 20, fld w 12 8⟩ (flag w 11))
  | 0x0F => some (.mulh (gd w) (fld w 30 6) ⟨flag w 29, fld w 21 8⟩ ⟨flag w 20, fld w 12 8⟩ (flag w 11) (flag w 10))
  | 0x10 => some (.or (gd w) (fld w 30 6) ⟨flag w 29, fld w 21 8⟩ ⟨flag w 20, fld w 12 8⟩ (flag w 11))
  | 0x11 => some (.popc (gd w) (fld w 30 6) ⟨flag w 29, fld w 21 8⟩ (flag w 11))
  | 0x12 => some (.rem (gd w) (fld w 30 6) ⟨flag w 29, fld w 21 8⟩ ⟨flag w 20, fld w 12 8⟩ (flag w 11) (flag w 10))
  | 0x13 => some (.sel (gd w) (fld w 30 6) (flag w 29) (fld w 25 4) ⟨flag w 24, fld w 16 8⟩ ⟨flag w 15, fld w 7 8⟩)
  | 0x14 => some (.shl (gd w) (fld w 30 6) ⟨flag w 29, fld w 21 8⟩ ⟨flag w 20, fld w 12 8⟩ (flag w 11))
  | 0x15 => some (.shr (gd w) (fld w 30 6) ⟨flag w 29, fld w 21 8⟩ ⟨flag w 20, fld w 12 8⟩ (flag w 11))
  | 0x16 => some (.sra (gd w) (fld w 30 6) ⟨flag w 29, fld w 21 8⟩ ⟨flag w 20, fld w 12 8⟩ (flag w 11))
  | 0x17 => some (.st (gd w) ⟨flag w 35, fld w 27 8⟩ ⟨flag w 26, fld w 18 8⟩ (fld w 16 2) (fld w 0 16))
  | 0x18 => some (.sub (gd w) (fld w 30 6) ⟨flag w 29, fld w 21 8⟩ ⟨flag w 20, fld w 12 8⟩ (flag w 11))
  | 0x19 => some (.xfr (gd w) (fld w 32 4) (fld w 22 10) (fld w 18 4) (fld w 8 10) (flag w 7) (fld w 0 7))
  | 0x1A => some (.xor (gd w) (fld w 30 6) ⟨flag w 29, fld w 21 8⟩ ⟨flag w 20, fld w 12 8⟩ (flag w 11))
  | _ => none

/-- The forms of the V slot by opcode (R109); none for an unassigned opcode (R110). -/
def parseV (opc : Nat) (w : W48) : Option Instr :=
  match opc with
  | 0x01 => some (.vabs (gd w) (fld w 26 10) ⟨flag w 25, fld w 15 10⟩ (fld w 1 3))
  | 0x02 => some (.vadd (gd w) (fld w 26 10) ⟨flag w 25, fld w 15 10⟩ ⟨flag w 14, fld w 4 10⟩ (fld w 1 3))
  | 0x03 => some (.vand (gd w) (fld w 26 10) ⟨flag w 25, fld w 15 10⟩ ⟨flag w 14, fld w 4 10⟩ (fld w 1 3))
  | 0x04 => some (.vbcast (gd w) (fld w 26 10) (if flag w 25 then .imm (flag w 16) (fld w 0 16) else .com (fld w 17 8)))
  | 0x05 => some (.vclamp (gd w) (fld w 26 10) ⟨flag w 25, fld w 15 10⟩ ⟨flag w 14, fld w 4 10⟩ (fld w 1 3))
  | 0x06 => some (.vcmp (gd w) (fld w 33 3) ⟨flag w 32, fld w 22 10⟩ ⟨flag w 21, fld w 11 10⟩ (fld w 8 3) (fld w 5 3))
  | 0x07 => some (.vcompact (gd w) (fld w 26 10) (fld w 23 3) (flag w 22) ⟨flag w 21, fld w 11 10⟩)
  | 0x08 => some (.vcvt (gd w) (fld w 26 10) ⟨flag w 25, fld w 15 10⟩ (fld w 11 4) (fld w 7 4))
  | 0x09 => some (.vexp2 (gd w) (fld w 26 10) ⟨flag w 25, fld w 15 10⟩ (fld w 1 3))
  | 0x0A => some (.vfma (gd w) (fld w 26 10) ⟨flag w 25, fld w 15 10⟩ ⟨flag w 14, fld w 4 10⟩ (fld w 1 3))
  | 0x0B => some (.vmax (gd w) (fld w 26 10) ⟨flag w 25, fld w 15 10⟩ ⟨flag w 14, fld w 4 10⟩ (fld w 1 3))
  | 0x0C => some (.vmin (gd w) (fld w 26 10) ⟨flag w 25, fld w 15 10⟩ ⟨flag w 14, fld w 4 10⟩ (fld w 1 3))
  | 0x0D => some (.vmov (gd w) (fld w 26 10) ⟨flag w 25, fld w 15 10⟩ (fld w 1 3))
  | 0x0E => some (.vmul (gd w) (fld w 26 10) ⟨flag w 25, fld w 15 10⟩ ⟨flag w 14, fld w 4 10⟩ (fld w 1 3))
  | 0x0F => some (.vor (gd w) (fld w 26 10) ⟨flag w 25, fld w 15 10⟩ ⟨flag w 14, fld w 4 10⟩ (fld w 1 3))
  | 0x10 => some (.vperm (gd w) (fld w 26 10) ⟨flag w 25, fld w 15 10⟩ ⟨flag w 14, fld w 4 10⟩ (fld w 1 3))
  | 0x11 => some (.vrcp (gd w) (fld w 26 10) ⟨flag w 25, fld w 15 10⟩ (fld w 1 3))
  | 0x12 => some (.vred (gd w) (fld w 26 10) ⟨flag w 25, fld w 15 10⟩ (fld w 12 3) (fld w 9 3))
  | 0x13 => some (.vrsq (gd w) (fld w 26 10) ⟨flag w 25, fld w 15 10⟩ (fld w 1 3))
  | 0x14 => some (.vscan (gd w) (fld w 26 10) ⟨flag w 25, fld w 15 10⟩ (fld w 12 3) (fld w 9 3))
  | 0x15 => some (.vsel (gd w) (fld w 26 10) (fld w 23 3) (flag w 22) ⟨flag w 21, fld w 11 10⟩ ⟨flag w 10, fld w 0 10⟩)
  | 0x16 => some (.vshl (gd w) (fld w 26 10) ⟨flag w 25, fld w 15 10⟩ ⟨flag w 14, fld w 4 10⟩ (fld w 1 3))
  | 0x17 => some (.vshr (gd w) (fld w 26 10) ⟨flag w 25, fld w 15 10⟩ ⟨flag w 14, fld w 4 10⟩ (fld w 1 3))
  | 0x18 => some (.vsub (gd w) (fld w 26 10) ⟨flag w 25, fld w 15 10⟩ ⟨flag w 14, fld w 4 10⟩ (fld w 1 3))
  | 0x19 => some (.vxor (gd w) (fld w 26 10) ⟨flag w 25, fld w 15 10⟩ ⟨flag w 14, fld w 4 10⟩ (fld w 1 3))
  | _ => none

/-- The forms of the L slot by opcode (R109); none for an unassigned opcode (R110). -/
def parseL (opc : Nat) (w : W48) : Option Instr :=
  match opc with
  | 0x01 => some (.aadd (gd w) (fld w 26 10) (fld w 18 8) (fld w 12 6) (fld w 2 10) (fld w 0 2))
  | 0x02 => some (.aaddf (gd w) (fld w 26 10) (fld w 18 8) (fld w 12 6) (fld w 2 10) (fld w 0 2))
  | 0x03 => some (.acas (gd w) (fld w 26 10) (fld w 18 8) (fld w 12 6) (fld w 2 10) (fld w 0 2))
  | 0x04 => some (.aswap (gd w) (fld w 26 10) (fld w 18 8) (fld w 12 6) (fld w 2 10) (fld w 0 2))
  | 0x05 => some (.tagi (gd w) (fld w 26 10) (fld w 10 6))
  | 0x06 => some (.tagl (gd w) (fld w 26 10) (fld w 16 10) (fld w 10 6))
  | 0x07 => some (.tagw (gd w) (fld w 26 10) (fld w 16 10) (fld w 10 6))
  | 0x08 => some (.vld (gd w) (fld w 26 10) (fld w 18 8) (fld w 12 6) (fld w 0 11))
  | 0x09 => some (.vlde (gd w) (fld w 26 10) (fld w 18 8) (fld w 12 6) (fld w 0 11))
  | 0x0A => some (.vldx (gd w) (fld w 26 10) (fld w 18 8) (fld w 12 6) (fld w 2 10) (flag w 1))
  | 0x0B => some (.vst (gd w) (fld w 26 10) (fld w 18 8) (fld w 12 6) (flag w 11) (fld w 0 11))
  | 0x0C => some (.vstx (gd w) (fld w 26 10) (fld w 18 8) (fld w 12 6) (fld w 2 10) (flag w 1) (flag w 0))
  | _ => none

/-- The forms of the M slot by opcode (R109); none for an unassigned opcode (R110). -/
def parseM (opc : Nat) (w : W48) : Option Instr :=
  match opc with
  | 0x01 => some (.manch (eh w) (fld w 9 2) (fld w 5 4))
  | 0x02 => some (.mdrain (eh w) (fld w 9 2) (fld w 5 4))
  | 0x03 => some (.mma (eh w) (fld w 9 2) (fld w 5 4) (fld w 1 4))
  | 0x04 => some (.mmas (eh w) (fld w 9 2) (fld w 6 3) (fld w 3 3) (fld w 1 2))
  | 0x05 => some (.mzero (eh w) (fld w 9 2) (fld w 5 4))
  | _ => none

/-- The forms of the P slot by opcode (R109); none for an unassigned opcode (R110). -/
def parseP (opc : Nat) (w : W48) : Option Instr :=
  match opc with
  | 0x01 => some (.pcheck (eh w) (fld w 7 4))
  | 0x02 => some (.pdot (eh w) (fld w 9 2) (fld w 5 4) (fld w 1 4))
  | 0x03 => some (.pgrp (eh w) (fld w 7 4))
  | 0x04 => some (.pscan (eh w) (fld w 7 4) (fld w 3 4))
  | 0x05 => some (.pscore (eh w) (fld w 7 4))
  | _ => none

/-- The forms of the X slot by opcode (R109); none for an unassigned opcode (R110). -/
def parseX (opc : Nat) (w : W48) : Option Instr :=
  match opc with
  | 0x01 => some (.xget (eh w) (fld w 6 5) (fld w 2 4))
  | 0x02 => some (.xmv (eh w) (fld w 6 5) (if flag w 5 then .reg (fld w 0 5) else .port (fld w 0 5)))
  | 0x03 => some (.xmvi (eh w) (fld w 6 5) (flag w 5) (fld w 0 5))
  | _ => none

/-- The forms of the D slot by opcode (R109); none for an unassigned opcode (R110). -/
def parseD (opc : Nat) (w : W48) : Option Instr :=
  match opc with
  | 0x01 => some (.atomm (eh w) (fld w 6 5) (fld w 2 4))
  | 0x02 => some (.atomr (eh w) (fld w 6 5) (fld w 2 4))
  | 0x03 => some (.cbar (eh w))
  | 0x04 => some (.cpy (eh w) (fld w 6 5) (fld w 2 4) (fld w 0 2))
  | 0x05 => some (.cpyg (eh w) (fld w 6 5) (fld w 2 4) (fld w 0 2))
  | 0x06 => some (.cpys (eh w) (fld w 6 5) (fld w 2 4) (fld w 0 2))
  | 0x07 => some (.cpyx (eh w) (fld w 6 5) (fld w 2 4) (fld w 0 2))
  | 0x08 => some (.cred (eh w) (fld w 6 5) (fld w 2 4))
  | 0x09 => some (.fence (eh w) (fld w 8 3) (flag w 7))
  | 0x0A => some (.gdone (eh w) (fld w 6 5))
  | 0x0B => some (.gtrig (eh w) (fld w 6 5))
  | 0x0C => some (.notify (eh w) (fld w 6 5))
  | 0x0D => some (.tokj (eh w))
  | _ => none

/-- The form that a slot word holds (R97, R109). -/
def parseSlot (k : Slot) (w : W48) : Option Instr :=
  let opc := (fld w 36 7).toNat
  match k with
  | .K => parseK opc w | .A => parseA opc w | .V => parseV opc w | .L => parseL opc w
  | .M => parseM opc w | .P => parseP opc w | .X => parseX opc w | .D => parseD opc w

/-- The reserved bits of each form: low bit and length of each Res field (R100 to R104). N2 and gs2 of GNOT count as one (log 46). -/
def Instr.resFields : Instr → List (Nat × Nat)
  | .lit _ => [(32, 4)]
  | .fmt _ (.imm _) | .opp _ (.imm _) | .phase _ (.imm _) | .rcm _ (.imm _) => [(32, 3)]
  | .fmt _ (.reg _) | .opp _ (.reg _) | .phase _ (.reg _) | .rcm _ (.reg _) => [(32, 3), (9, 23)]
  | .loop _ (.reg _) _ => [(19, 7)]
  | .vbcast _ _ (.com _) => [(0, 16)]
  | .vbcast _ _ (.imm ..) => [(17, 8)]
  | .br .. => [(32, 4)]
  | .brk .. | .svc .. => [(16, 20)]
  | .brx .. | .ret .. => [(0, 27)]
  | .halt .. | .leave .. => [(0, 36)]
  | .mfs .. => [(27, 5), (12, 15)]
  | .mts .. => [(12, 15)]
  | .stat .. => [(2, 30)]
  | .wait .. => [(0, 12)]
  | .add .. | .and .. | .cmp .. | .div .. | .max .. | .min .. | .mul .. | .mulh .. | .or .. | .rem .. | .shl .. | .shr .. | .sra .. | .sub .. | .xor .. | .tagl .. | .tagw .. => [(0, 10)]
  | .clz .. | .popc .. => [(12, 9), (0, 11)]
  | .gand .. | .gor .. => [(0, 22)]
  | .gnot .. => [(22, 5), (0, 22)]
  | .sel .. | .vcvt .. | .pcheck .. | .pgrp .. | .pscore .. | .fence .. => [(0, 7)]
  | .vabs .. | .vexp2 .. | .vmov .. | .vrcp .. | .vrsq .. => [(4, 11), (0, 1)]
  | .vadd .. | .vand .. | .vclamp .. | .vfma .. | .vmax .. | .vmin .. | .vmul .. | .vor .. | .vperm .. | .vshl .. | .vshr .. | .vsub .. | .vxor .. | .vldx .. | .mma .. | .mmas .. | .pdot .. => [(0, 1)]
  | .vcmp .. | .manch .. | .mdrain .. | .mzero .. => [(0, 5)]
  | .vcompact .. | .cbar .. | .tokj .. => [(0, 11)]
  | .vred .. | .vscan .. => [(0, 9)]
  | .tagi .. => [(16, 10), (0, 10)]
  | .vld .. | .vlde .. => [(11, 1)]
  | .pscan .. => [(0, 3)]
  | .xget .. | .atomm .. | .atomr .. | .cred .. => [(0, 2)]
  | .gdone .. | .gtrig .. | .notify .. => [(0, 6)]
  | _ => []

/-- Every Res field of the slot word is zero (subcode 4). -/
def resOk (w : W48) (i : Instr) : Bool := i.resFields.all fun p => fld w p.1 p.2 == 0

/-- The variant bits that a form must leave zero although its format has them (subcode 5): SG (R101, R106),
LT of VBCAST beside a commons source (R102), the guard of LIT (R97). -/
def strayOk (w : W48) : Instr → Bool
  | .add .. | .and .. | .mul .. | .or .. | .shl .. | .shr .. | .sra .. | .sub .. | .xor .. => !flag w 10
  | .vbcast _ _ (.com _) => !flag w 16
  | .lit _ => !flag w 47 && fld w 43 4 == 0
  | _ => true

/-- The checks of subcodes 3 to 5 on one slot, in that order, without the placement of EXIT. -/
def decodeSlot (k : Slot) (w : W48) : Except Reject Instr :=
  match parseSlot k w with
  | none => .error .unassigned
  | some i =>
    if !(resOk w i && i.markOk) then .error .reserved
    else if !(strayOk w i && i.rangeOk) then .error .range
    else .ok i

/-- The flags of a header (R92). -/
def headerFlags (h : W16) : Flags := ⟨fld h 11 5, flag h 10, flag h 9, flag h 8⟩

/-- Fill header (R95). -/
def isFill (h : W16) : Bool := fld h 0 8 == 0 && fld h 11 5 == 31 && fld h 8 3 == 0

/-- The slots present (R92), in ascending PRES order. -/
def presSlots (h : W16) : List Slot :=
  ([(0, Slot.K), (1, .A), (2, .V), (3, .L), (4, .M), (5, .P), (6, .X), (7, .D)].filter fun p => flag h p.1).map (·.2)

/-- The length in bytes of a bundle with this header (R93). -/
def bundleLen (h : W16) : Nat := 2 + 6 * (presSlots h).length

/-- The slot words that follow a header. -/
def slotWords : List Slot → List Byte → List (Slot × W48)
  | [], _ => []
  | k :: t, bs => (k, BitVec.ofNat 48 (leNat (bs.take 6))) :: slotWords t (bs.drop 6)

/-- The header at the start of a byte list. -/
def headerOf (bs : List Byte) : W16 := BitVec.ofNat 16 (leNat (bs.take 2))

/-- Reads the bundle at the start of `bs`, the bytes from its header to the end of its fetch line, where `size`
is its size under R96. The first failed check of R111 names the rejection. -/
def decodeBundle (size : Nat) (bs : List Byte) : Except Reject Bundle :=
  let h := headerOf bs
  let f := headerFlags h
  let ws := slotWords (presSlots h) (bs.drop 2)
  let is := ws.filterMap fun p => parseSlot p.1 p.2
  let each (c : W48 → Instr → Bool) : Bool := ws.all fun p => (parseSlot p.1 p.2).any (c p.2)
  if isFill h then .error .fillHeader
  else if bs.length < bundleLen h then .error .crossesLine
  else if fld h 0 8 == 0 && f.ew == 31 then .error .badFill
  else if !(each fun _ _ => true) then .error .unassigned
  else if !(each fun w i => resOk w i && i.markOk) then .error .reserved
  else if !(each fun w i => strayOk w i && i.rangeOk && i.exitOk size) then .error .range
  else if !commonsOk ((is.map Instr.commons).flatten) then .error .port
  else if !litOk is then .error .literal
  else if !svcOk f is then .error .svcNoCkpt
  else if !writesOk is then .error .writeConflict
  else .ok ⟨f, is⟩

/-- What the decoder reads from one instruction whose bits are `w`: a bundle of one slot, its header in bits
15..0 and the slot above it; a header with no slot is an empty bundle (R95). -/
def decodeTableWord (nbits w : Nat) : Option Instr :=
  let bs := leBytes 64 (w % 2 ^ nbits)
  match decodeBundle (bundleLen (headerOf bs)) bs with
  | .ok b => match b.slots with
    | [] => some (.emptyBundle b.flags)
    | [i] => some i
    | _ => none
  | .error _ => none

/-! ### The encoder -/

/-- GN, G and OPC (R97). -/
def guardOpc (g : Gd) (opc : BitVec 7) : Nat := push (push (push 0 (bit1 g.neg)) g.g) opc

/-- GN, G, OPC and the shared fields (R97, R98). -/
def engHead (h : Eh) (opc : BitVec 7) : Nat :=
  push (push (push (push (push (guardOpc h.gd opc) (bit1 h.hold)) h.pt) h.ct0) h.ct1) h.ct2

/-- An S shape (R99). -/
def pushS (acc : Nat) (s : Src) : Nat := push (push acc (bit1 s.mark)) s.op

/-- A VS shape (R99). -/
def pushVS (acc : Nat) (s : VSrc) : Nat := push (push acc (bit1 s.mark)) s.r

/-- The fields of a slot packed from bit 47 down (R97 to R104, R109); 0 for what is no slot. -/
def Instr.pack48 : Instr → Nat
  | .br g off => push (push (guardOpc g 0x01) 0#4) off
  | .brk g imm => push (push (guardOpc g 0x02) 0#20) imm
  | .brx g s => push (pushS (guardOpc g 0x03) s) 0#27
  | .call g kd off => push (push (guardOpc g 0x04) kd) off
  | .fmt g (.imm v) => push (push (guardOpc g 0x05) 0#4) v
  | .fmt g (.reg s) => pushS (push (push (guardOpc g 0x05) 1#1) 0#26) s
  | .halt g => push (guardOpc g 0x06) 0#36
  | .leave g => push (guardOpc g 0x07) 0#36
  | .lit imm => push (push (guardOpc ⟨false, 0⟩ 0x08) 0#4) imm
  | .loop g (.imm n) ex => push (push (push (guardOpc g 0x09) 0#1) n) ex
  | .loop g (.reg s) ex => push (push (pushS (push (guardOpc g 0x09) 1#1) s) 0#7) ex
  | .mfs g kd sreg => push (push (push (push (guardOpc g 0x0A) kd) 0#5) 0#15) sreg
  | .mts g s sreg => push (push (pushS (guardOpc g 0x0B) s) 0#15) sreg
  | .opp g (.imm v) => push (push (guardOpc g 0x0C) 0#4) v
  | .opp g (.reg s) => pushS (push (push (guardOpc g 0x0C) 1#1) 0#26) s
  | .phase g (.imm v) => push (push (guardOpc g 0x0D) 0#4) v
  | .phase g (.reg s) => pushS (push (push (guardOpc g 0x0D) 1#1) 0#26) s
  | .rcm g (.imm v) => push (push (guardOpc g 0x0E) 0#4) v
  | .rcm g (.reg s) => pushS (push (push (guardOpc g 0x0E) 1#1) 0#26) s
  | .ret g s => push (pushS (guardOpc g 0x0F) s) 0#27
  | .stat g kd z => push (push (push (guardOpc g 0x10) kd) 0#30) z
  | .svc g imm => push (push (guardOpc g 0x11) 0#20) imm
  | .wait g t0 t1 t2 t3 => push (push (push (push (push (guardOpc g 0x12) t0) t1) t2) t3) 0#12
  | .add g ad s1 s2 wd => push (push (push (pushS (pushS (push (guardOpc g 0x01) ad) s1) s2) (bit1 wd)) 0#1) 0#10
  | .addi g ad s1 lt imm => push (push (pushS (push (guardOpc g 0x02) ad) s1) (bit1 lt)) imm
  | .and g ad s1 s2 wd => push (push (push (pushS (pushS (push (guardOpc g 0x03) ad) s1) s2) (bit1 wd)) 0#1) 0#10
  | .clz g ad s1 wd => push (push (push (pushS (push (guardOpc g 0x04) ad) s1) 0#9) (bit1 wd)) 0#11
  | .cmp g dst s1 s2 cc wd => push (push (push (pushS (pushS (push (guardOpc g 0x05) dst) s1) s2) cc) (bit1 wd)) 0#10
  | .div g ad s1 s2 wd sg => push (push (push (pushS (pushS (push (guardOpc g 0x06) ad) s1) s2) (bit1 wd)) (bit1 sg)) 0#10
  | .gand g dst n1 gs1 n2 gs2 => push (push (push (push (push (push (guardOpc g 0x07) dst) (bit1 n1)) gs1) (bit1 n2)) gs2) 0#22
  | .gnot g dst n1 gs1 => push (push (push (push (push (guardOpc g 0x08) dst) (bit1 n1)) gs1) 0#5) 0#22
  | .gor g dst n1 gs1 n2 gs2 => push (push (push (push (push (push (guardOpc g 0x09) dst) (bit1 n1)) gs1) (bit1 n2)) gs2) 0#22
  | .ld g ad sb sz sx off => push (push (push (pushS (push (guardOpc g 0x0A) ad) sb) sz) (bit1 sx)) off
  | .max g ad s1 s2 wd sg => push (push (push (pushS (pushS (push (guardOpc g 0x0B) ad) s1) s2) (bit1 wd)) (bit1 sg)) 0#10
  | .min g ad s1 s2 wd sg => push (push (push (pushS (pushS (push (guardOpc g 0x0C) ad) s1) s2) (bit1 wd)) (bit1 sg)) 0#10
  | .movi g ad lt imm => push (push (push (guardOpc g 0x0D) ad) (bit1 lt)) imm
  | .mul g ad s1 s2 wd => push (push (push (pushS (pushS (push (guardOpc g 0x0E) ad) s1) s2) (bit1 wd)) 0#1) 0#10
  | .mulh g ad s1 s2 wd sg => push (push (push (pushS (pushS (push (guardOpc g 0x0F) ad) s1) s2) (bit1 wd)) (bit1 sg)) 0#10
  | .or g ad s1 s2 wd => push (push (push (pushS (pushS (push (guardOpc g 0x10) ad) s1) s2) (bit1 wd)) 0#1) 0#10
  | .popc g ad s1 wd => push (push (push (pushS (push (guardOpc g 0x11) ad) s1) 0#9) (bit1 wd)) 0#11
  | .rem g ad s1 s2 wd sg => push (push (push (pushS (pushS (push (guardOpc g 0x12) ad) s1) s2) (bit1 wd)) (bit1 sg)) 0#10
  | .sel g ad gn2 gs s1 s2 => push (pushS (pushS (push (push (push (guardOpc g 0x13) ad) (bit1 gn2)) gs) s1) s2) 0#7
  | .shl g ad s1 s2 wd => push (push (push (pushS (pushS (push (guardOpc g 0x14) ad) s1) s2) (bit1 wd)) 0#1) 0#10
  | .shr g ad s1 s2 wd => push (push (push (pushS (pushS (push (guardOpc g 0x15) ad) s1) s2) (bit1 wd)) 0#1) 0#10
  | .sra g ad s1 s2 wd => push (push (push (pushS (pushS (push (guardOpc g 0x16) ad) s1) s2) (bit1 wd)) 0#1) 0#10
  | .st g sd sb sz off => push (push (pushS (pushS (guardOpc g 0x17) sd) sb) sz) off
  | .sub g ad s1 s2 wd => push (push (push (pushS (pushS (push (guardOpc g 0x18) ad) s1) s2) (bit1 wd)) 0#1) 0#10
  | .xfr g df di sf si l el => push (push (push (push (push (push (guardOpc g 0x19) df) di) sf) si) (bit1 l)) el
  | .xor g ad s1 s2 wd => push (push (push (pushS (pushS (push (guardOpc g 0x1A) ad) s1) s2) (bit1 wd)) 0#1) 0#10
  | .vabs g vd va vt => push (push (push (pushVS (push (guardOpc g 0x01) vd) va) 0#11) vt) 0#1
  | .vadd g vd va vb vt => push (push (pushVS (pushVS (push (guardOpc g 0x02) vd) va) vb) vt) 0#1
  | .vand g vd va vb vt => push (push (pushVS (pushVS (push (guardOpc g 0x03) vd) va) vb) vt) 0#1
  | .vbcast g vd (.com c) => push (push (push (push (guardOpc g 0x04) vd) 0#1) c) 0#17
  | .vbcast g vd (.imm lt v) => push (push (push (push (push (guardOpc g 0x04) vd) 1#1) 0#8) (bit1 lt)) v
  | .vclamp g vd va vb vt => push (push (pushVS (pushVS (push (guardOpc g 0x05) vd) va) vb) vt) 0#1
  | .vcmp g vgd va vb cc vt => push (push (push (pushVS (pushVS (push (guardOpc g 0x06) vgd) va) vb) cc) vt) 0#5
  | .vcompact g vd vg gn2 va => push (pushVS (push (push (push (guardOpc g 0x07) vd) vg) (bit1 gn2)) va) 0#11
  | .vcvt g vd va frm dst => push (push (push (pushVS (push (guardOpc g 0x08) vd) va) frm) dst) 0#7
  | .vexp2 g vd va vt => push (push (push (pushVS (push (guardOpc g 0x09) vd) va) 0#11) vt) 0#1
  | .vfma g vd va vb vt => push (push (pushVS (pushVS (push (guardOpc g 0x0A) vd) va) vb) vt) 0#1
  | .vmax g vd va vb vt => push (push (pushVS (pushVS (push (guardOpc g 0x0B) vd) va) vb) vt) 0#1
  | .vmin g vd va vb vt => push (push (pushVS (pushVS (push (guardOpc g 0x0C) vd) va) vb) vt) 0#1
  | .vmov g vd va vt => push (push (push (pushVS (push (guardOpc g 0x0D) vd) va) 0#11) vt) 0#1
  | .vmul g vd va vb vt => push (push (pushVS (pushVS (push (guardOpc g 0x0E) vd) va) vb) vt) 0#1
  | .vor g vd va vb vt => push (push (pushVS (pushVS (push (guardOpc g 0x0F) vd) va) vb) vt) 0#1
  | .vperm g vd va vb vt => push (push (pushVS (pushVS (push (guardOpc g 0x10) vd) va) vb) vt) 0#1
  | .vrcp g vd va vt => push (push (push (pushVS (push (guardOpc g 0x11) vd) va) 0#11) vt) 0#1
  | .vred g vd va op vt => push (push (push (pushVS (push (guardOpc g 0x12) vd) va) op) vt) 0#9
  | .vrsq g vd va vt => push (push (push (pushVS (push (guardOpc g 0x13) vd) va) 0#11) vt) 0#1
  | .vscan g vd va op vt => push (push (push (pushVS (push (guardOpc g 0x14) vd) va) op) vt) 0#9
  | .vsel g vd vg gn2 va vb => pushVS (pushVS (push (push (push (guardOpc g 0x15) vd) vg) (bit1 gn2)) va) vb
  | .vshl g vd va vb vt => push (push (pushVS (pushVS (push (guardOpc g 0x16) vd) va) vb) vt) 0#1
  | .vshr g vd va vb vt => push (push (pushVS (pushVS (push (guardOpc g 0x17) vd) va) vb) vt) 0#1
  | .vsub g vd va vb vt => push (push (pushVS (pushVS (push (guardOpc g 0x18) vd) va) vb) vt) 0#1
  | .vxor g vd va vb vt => push (push (pushVS (pushVS (push (guardOpc g 0x19) vd) va) vb) vt) 0#1
  | .aadd g v base ct vi t => push (push (push (push (push (guardOpc g 0x01) v) base) ct) vi) t
  | .aaddf g v base ct vi t => push (push (push (push (push (guardOpc g 0x02) v) base) ct) vi) t
  | .acas g v base ct vi t => push (push (push (push (push (guardOpc g 0x03) v) base) ct) vi) t
  | .aswap g v base ct vi t => push (push (push (push (push (guardOpc g 0x04) v) base) ct) vi) t
  | .tagi g v1 ct => push (push (push (push (guardOpc g 0x05) v1) 0#10) ct) 0#10
  | .tagl g v1 v2 ct => push (push (push (push (guardOpc g 0x06) v1) v2) ct) 0#10
  | .tagw g v1 v2 ct => push (push (push (push (guardOpc g 0x07) v1) v2) ct) 0#10
  | .vld g v base ct off => push (push (push (push (push (guardOpc g 0x08) v) base) ct) 0#1) off
  | .vlde g v base ct off => push (push (push (push (push (guardOpc g 0x09) v) base) ct) 0#1) off
  | .vldx g v base ct vi li => push (push (push (push (push (push (guardOpc g 0x0A) v) base) ct) vi) (bit1 li)) 0#1
  | .vst g v base ct l off => push (push (push (push (push (guardOpc g 0x0B) v) base) ct) (bit1 l)) off
  | .vstx g v base ct vi li dm => push (push (push (push (push (push (guardOpc g 0x0C) v) base) ct) vi) (bit1 li)) (bit1 dm)
  | .manch h z m => push (push (push (engHead h 0x01) z) m) 0#5
  | .mdrain h z m => push (push (push (engHead h 0x02) z) m) 0#5
  | .mma h z ma mb => push (push (push (push (engHead h 0x03) z) ma) mb) 0#1
  | .mmas h z ma mb sc => push (push (push (push (push (engHead h 0x04) z) ma) mb) sc) 0#1
  | .mzero h z m => push (push (push (engHead h 0x05) z) m) 0#5
  | .pcheck h p => push (push (engHead h 0x01) p) 0#7
  | .pdot h z q p => push (push (push (push (engHead h 0x02) z) q) p) 0#1
  | .pgrp h p => push (push (engHead h 0x03) p) 0#7
  | .pscan h q p => push (push (push (engHead h 0x04) q) p) 0#3
  | .pscore h p => push (push (engHead h 0x05) p) 0#7
  | .xget h sp x => push (push (push (engHead h 0x01) sp) x) 0#2
  | .xmv h p (.port s) => push (push (push (engHead h 0x02) p) 0#1) s
  | .xmv h p (.reg x) => push (push (push (engHead h 0x02) p) 1#1) x
  | .xmvi h dp lt imm => push (push (push (engHead h 0x03) dp) (bit1 lt)) imm
  | .atomm h d op => push (push (push (engHead h 0x01) d) op) 0#2
  | .atomr h d op => push (push (push (engHead h 0x02) d) op) 0#2
  | .cbar h => push (engHead h 0x03) 0#11
  | .cpy h d ac ord => push (push (push (engHead h 0x04) d) ac) ord
  | .cpyg h d ac ord => push (push (push (engHead h 0x05) d) ac) ord
  | .cpys h d ac ord => push (push (push (engHead h 0x06) d) ac) ord
  | .cpyx h d ac ord => push (push (push (engHead h 0x07) d) ac) ord
  | .cred h d op => push (push (push (engHead h 0x08) d) op) 0#2
  | .fence h scope sc => push (push (push (engHead h 0x09) scope) (bit1 sc)) 0#7
  | .gdone h d => push (push (engHead h 0x0A) d) 0#6
  | .gtrig h d => push (push (engHead h 0x0B) d) 0#6
  | .notify h d => push (push (engHead h 0x0C) d) 0#6
  | .tokj h => push (engHead h 0x0D) 0#11
  | _ => 0

/-- The slot word of an instruction. -/
def encode (i : Instr) : W48 := BitVec.ofNat 48 i.pack48

/-- The PRES bits of a list of slots (R92). -/
def presOf (l : List Instr) : BitVec 8 :=
  let has (k : Slot) : BitVec 1 := bit1 (l.any fun i => i.slot == some k)
  BitVec.ofNat 8 (push (push (push (push (push (push (push (push 0 (has .D)) (has .X)) (has .P)) (has .M)) (has .L)) (has .V)) (has .A)) (has .K))

/-- The header of a bundle (R92). -/
def encodeHeader (b : Bundle) : W16 :=
  BitVec.ofNat 16 (push (push (push (push (push 0 b.flags.ew) (bit1 b.flags.safe)) (bit1 b.flags.ckpt)) (bit1 b.flags.stop)) (presOf b.slots))

/-- The bytes of a bundle (R93). -/
def encodeBundle (b : Bundle) : List Byte :=
  leBytes 2 (encodeHeader b).toNat ++ (b.slots.map fun i => leBytes 6 (encode i).toNat).flatten

end Sys2Proof
end

