-- ==== Sys2Proof/Machine/Control.lean ====
section
/-! DEFINITION. The K slot: control transfers, loops, special registers, formats, waits, phases and the calls that
leave the stream (R330 to R335, R343, R346, R348 to R351, R355 to R357, R362, R367, R371, R373, R377, R379, R395). -/
namespace Sys2Proof.Machine

/-! ### What control transfers share -/

/-- A taken control transfer: every hold and the open group end (R70, R75); the bundle arms no hold. -/
def State.endHolds (s : State) : State :=
  (s.updStream s.cur fun st => { st with regs := { st.regs with holds := {} }, groupR := [], groupW := [] }).setFrame
    { s.frame with taken := true }

/-- BRK, SVC and HALT end every hold (R332, R346, R379); they are no transfer, and the group goes on (R70). -/
def State.dropHolds (s : State) : State :=
  (s.updRegs s.cur fun r => { r with holds := {} }).setFrame { s.frame with unhold := true }

/-- The next address is chosen by the K slot itself. -/
def State.jump (s : State) (pc : W48) (loops : List LoopEntry) : State :=
  let s := s.updRegs s.cur fun r => { r with pc, loops }
  s.setFrame { s.frame with jumped := true }

/-- The target of BR and CALL (R330). -/
def jumpTarget (pc : W48) (off : W32) : W48 := wrap 48 (pc.toNat + 2 * off.toInt)

/-- The target of BRX and RET (R333, R373): bits [47:1] of the source. -/
def regTarget (v : W64) : W48 := (fld v 1 47).setWidth 48 <<< 1

/-- A taken BR or BRX (R77, R330). -/
def State.branch (s : State) (target : W48) : State :=
  (s.jump target (popFor target s.src.regs.loops)).endHolds

/-- A checkpoint is asked for at the boundary after the bundle in issue (R81, R87, R291, R346). -/
def State.ckptAfter (s : State) (after : AfterCkpt) : State :=
  s.updStream s.cur fun st => { st with ckpt := some { before := st.nextId, after } }

/-- The trap cause of the bundle in issue. -/
def State.causeHere (s : State) (cause : Nat) (detail : BitVec 29) : TrapCause :=
  ⟨cause, detail, s.src.regs.pc, s.me.bundleNo, BitVec.ofNat 3 ((s.me.launch.map (·.gpos)).getD 0)⟩

/-! ### Special registers -/

/-- A loop entry as 128 bits (R79). -/
def LoopEntry.word (e : LoopEntry) : W128 :=
  BitVec.ofNat 128 (e.count.toNat * 2 ^ 96 + e.exit.toNat * 2 ^ 48 + e.start.toNat)

/-- Half `h` of loop entry `n`, 0 at or above LDEPTH (R355). -/
def loopHalf (ls : List LoopEntry) (n h : Nat) : W64 :=
  match ls.reverse[n]? with
  | some e => fld e.word (64 * h) 64
  | none => 0

/-- The value that MFS reads (R355). Registers that the device changes by itself are read as they are now. -/
def sregValue (s : State) (sr : Nat) : W64 :=
  let st := s.src
  let y := s.me.sys
  let l := st.launch
  let nat (x : Nat) : W64 := BitVec.ofNat 64 x
  let core := s.core s.cur.core
  match sr with
  | 0x000 => core.cycle
  | 0x001 => (s.ctx st.owner).rank.setWidth 64
  | 0x002 => nat ((l.map (·.gpos)).getD 0)
  | 0x003 => nat ((l.map (·.gsize)).getD 1)
  | 0x004 => ((l.map LaunchInfo.skew).getD 0).setWidth 64
  | 0x005 => st.regs.dom
  | 0x006 => if st.det then 1 else 0
  | 0x007 => y.safemax
  | 0x008 => st.regs.slack
  | 0x009 => (s.ctx st.owner).tdeleg
  | 0x00A => st.regs.fmtr
  | 0x00B => (s.ctx st.owner).contain
  | 0x00C => y.faultpc
  | 0x00D => y.ckptpc
  | 0x00E => nat st.regs.loops.length
  | 0x00F => y.tcause
  | 0x0C0 => core.tsense
  | 0x0C1 => core.vsense
  | n =>
    if 0x010 ≤ n ∧ n ≤ 0x01B then loopHalf st.regs.loops ((n - 0x010) / 2) (n % 2)
    else if 0x040 ≤ n ∧ n ≤ 0x07F then y.blogm.getD (n - 0x040) 0
    else if 0x080 ≤ n ∧ n ≤ 0x0BF then y.blogp.getD (n - 0x080) 0
    else 0

/-- The write of MTS to DOM or SLACK (R357); reserved bits of SLACK read 0 (R5). -/
def sregWrite (r : Regs) (sr : Nat) (v : W64) : Regs :=
  if sr = 0x005 then { r with dom := v }
  else if sr = 0x008 then { r with slack := (fld v 0 16).setWidth 64 }
  else r

/-- TSTAT of a tile as STAT reads it (R140, R377): what it was before the first drain that completed less than 4 cycles ago. -/
def readStat (c : Core) (z : Nat) : W64 :=
  let t := c.tiles.get z {}
  t.late.foldl (fun v p => if c.cycle.toNat < p.1 then p.2 else v) t.tstat

/-! ### The meanings -/

/-- BR (R330). -/
def execBr (g : Gd) (off : W32) (s : State) : Host.Outcome State Fault Refusal :=
  runSlot (.br g off) s fun s => s.branch (jumpTarget s.src.regs.pc off)

/-- BRK (R291, R332): holds end, an implicit checkpoint commits after the bundle, and cause 11 is taken. -/
def execBrk (g : Gd) (imm : W16) (s : State) : Host.Outcome State Fault Refusal :=
  runSlot (.brk g imm) s fun s => (s.ckptAfter (.trap (s.causeHere 11 (imm.setWidth 29)))).dropHolds

/-- BRX (R333). -/
def execBrx (g : Gd) (x : Src) (s : State) : Host.Outcome State Fault Refusal :=
  runSlot (.brx g x) s fun s => (s.branch (regTarget (s.rd .k x))).markSrc .k x

/-- CALL (R77, R334): the end check gives the return address, then the stream branches and pops no loop. -/
def execCall (g : Gd) (kd : BitVec 4) (off : W32) (s : State) : Host.Outcome State Fault Refusal :=
  runSlot (.call g kd off) s fun s =>
    let n := nextPC s.npc s.src.regs.loops
    ((s.jump (jumpTarget s.src.regs.pc off) n.2).endHolds).wr .k kd.toNat (n.1.setWidth 64)

/-- FMT (R69, R343): the value waits for the shadow of four bundles. -/
def execFmt (g : Gd) (v : KVal) (s : State) : Host.Outcome State Fault Refusal :=
  runSlot (.fmt g v) s fun s =>
    let x := kVal s v
    let s := s.updRegs s.cur fun r => { r with fmtPend := some ((fld x 0 16).setWidth 64, 4) }
    match v with
    | .imm _ => s
    | .reg r => s.markSrc .k r

/-- HALT (R346): holds end, an implicit checkpoint commits after the bundle, and the stream issues no more. -/
def execHalt (g : Gd) (s : State) : Host.Outcome State Fault Refusal :=
  runSlot (.halt g) s fun s => (s.ckptAfter .halt).dropHolds

/-- LEAVE (R78, R348). -/
def execLeave (g : Gd) (s : State) : Host.Outcome State Fault Refusal :=
  runSlot (.leave g) s fun s =>
    (s.updRegs s.cur fun r => { r with loops := s.src.regs.loops.tail }).endHolds

/-- LIT (R349): the literal is in the frame for the slot that takes it; no register changes. -/
def execLit (imm : W32) (s : State) : Host.Outcome State Fault Refusal :=
  runSlot (.lit imm) s fun s => s.setFrame { s.frame with lit := some imm }

/-- LOOP (R76, R350, R351). -/
def execLoop (g : Gd) (n : LCount) (exoff : BitVec 19) (s : State) : Host.Outcome State Fault Refusal :=
  runSlot (.loop g n exoff) s fun s =>
    let c := tripCount s n
    let exit : W48 := s.src.regs.pc + 2 * exoff.setWidth 48
    let s :=
      if c = 0 then
        let t := nextPC exit s.src.regs.loops
        (s.jump t.1 t.2).endHolds
      else s.updRegs s.cur fun r => { r with loops := ⟨c, exit, s.npc⟩ :: s.src.regs.loops }
    match n with
    | .imm _ => s
    | .reg r => s.markSrc .k r

/-- MFS (R355). -/
def execMfs (g : Gd) (kd : BitVec 4) (sreg : BitVec 12) (s : State) : Host.Outcome State Fault Refusal :=
  runSlot (.mfs g kd sreg) s fun s => s.wr .k kd.toNat (sregValue s sreg.toNat)

/-- MTS (R357). -/
def execMts (g : Gd) (x : Src) (sreg : BitVec 12) (s : State) : Host.Outcome State Fault Refusal :=
  runSlot (.mts g x sreg) s fun s =>
    (s.updRegs s.cur fun r => sregWrite r sreg.toNat (s.rd .k x)).markSrc .k x

/-- OPP (R310, R311, R362). -/
def execOpp (g : Gd) (v : KVal) (s : State) : Host.Outcome State Fault Refusal :=
  runSlot (.opp g v) s fun s =>
    let n := fld (kVal s v) 0 3
    let s := (s.updSys s.cur fun y => { y with oppReq := n }).updCore s.cur.core oppIssued
    match v with
    | .imm _ => s
    | .reg r => s.markSrc .k r

/-- PHASE (R176, R200, R367): the stream waits at its domain once its engine operations have retired, those issued before this bundle (log 18); BARRIER_COMPLETE
and the step that finds it alone begin the phase. -/
def execPhase (g : Gd) (v : KVal) (s : State) : Host.Outcome State Fault Refusal :=
  runSlot (.phase g v) s fun s =>
    let w : PhaseWait := { value := fld (kVal s v) 0 32, pc := s.src.regs.pc, next := s.npc
                           level := (fld s.src.regs.dom 0 3).toNat, before := s.src.nextId }
    let s := s.updStream s.cur fun st => { st with phaseWait := some w }
    match v with
    | .imm _ => s
    | .reg r => s.markSrc .k r

/-- RCM (R65, R371): clusters of the allotment outside the mask are gated; a cluster named by the mask wakes. -/
def execRcm (g : Gd) (v : KVal) (s : State) : Host.Outcome State Fault Refusal :=
  runSlot (.rcm g v) s fun s =>
    let m := fld (kVal s v) 0 10
    let s := s.updStream s.cur fun st =>
      { st with regs := { st.regs with rcm := m }, sys := { st.sys with gatedClusters := st.vcl &&& ~~~m } }
    match v with
    | .imm _ => s
    | .reg r => s.markSrc .k r

/-- RET (R373): no loop is popped and no end check is made. -/
def execRet (g : Gd) (x : Src) (s : State) : Host.Outcome State Fault Refusal :=
  runSlot (.ret g x) s fun s => ((s.jump (regTarget (s.rd .k x)) s.src.regs.loops).endHolds).markSrc .k x

/-- STAT (R377). -/
def execStat (g : Gd) (kd : BitVec 4) (z : BitVec 2) (s : State) : Host.Outcome State Fault Refusal :=
  runSlot (.stat g kd z) s fun s =>
    s.wr .k kd.toNat (readStat (s.core s.cur.core) (tileBase s.cur.strm s.src.zt + z.toNat))

/-- SVC (R87, R290, R379): the checkpoint of the bundle commits, then cause 12 is taken; in a user handler SVC 0xFFFF
leaves it. -/
def execSvc (g : Gd) (imm : W16) (s : State) : Host.Outcome State Fault Refusal :=
  runSlot (.svc g imm) s fun s =>
    let after : AfterCkpt :=
      if s.me.regs.handler.isSome ∧ imm = 0xFFFF then .leaveHandler else .trap (s.causeHere 12 (imm.setWidth 29))
    (s.ckptAfter after).dropHolds

/-- WAIT (R395): the bundle has waited before it issues; WAIT itself changes nothing. -/
def execWait (g : Gd) (t0 t1 t2 t3 : BitVec 6) (s : State) : Host.Outcome State Fault Refusal :=
  runSlot (.wait g t0 t1 t2 t3) s fun s => s

end Sys2Proof.Machine
end

