-- ==== Sys2Proof/Machine/Engines.lean ====
section
/-! DEFINITION. The M, P, X and D slots at issue: each captures its registers and formats and joins its queue
(R72, R74, R98, R166, R170). What the operation then does is the meaning of the engine's steps. -/
namespace Sys2Proof.Machine

/-- MANCH at issue (R138, R352). -/
def execManch (h : Eh) (z : BitVec 2) (m : BitVec 4) (s : State) : Host.Outcome State Fault Refusal :=
  engSlot .M h (.manch h z m) s

/-- MDRAIN at issue (R139, R354). -/
def execMdrain (h : Eh) (z : BitVec 2) (m : BitVec 4) (s : State) : Host.Outcome State Fault Refusal :=
  engSlot .M h (.mdrain h z m) s

/-- MMA at issue (R137, R358). -/
def execMma (h : Eh) (z : BitVec 2) (ma mb : BitVec 4) (s : State) : Host.Outcome State Fault Refusal :=
  engSlot .M h (.mma h z ma mb) s

/-- MMAS at issue (R137, R358). -/
def execMmas (h : Eh) (z : BitVec 2) (ma mb : BitVec 3) (sc : BitVec 2) (s : State) : Host.Outcome State Fault Refusal :=
  engSlot .M h (.mmas h z ma mb sc) s

/-- MZERO at issue (R138, R352). -/
def execMzero (h : Eh) (z : BitVec 2) (m : BitVec 4) (s : State) : Host.Outcome State Fault Refusal :=
  engSlot .M h (.mzero h z m) s

/-- PCHECK at issue (R158, R364). -/
def execPcheck (h : Eh) (p : BitVec 4) (s : State) : Host.Outcome State Fault Refusal :=
  engSlot .P h (.pcheck h p) s

/-- PDOT at issue (R153, R365). -/
def execPdot (h : Eh) (z : BitVec 2) (q p : BitVec 4) (s : State) : Host.Outcome State Fault Refusal :=
  engSlot .P h (.pdot h z q p) s

/-- PGRP at issue (R149, R366). -/
def execPgrp (h : Eh) (p : BitVec 4) (s : State) : Host.Outcome State Fault Refusal :=
  engSlot .P h (.pgrp h p) s

/-- PSCAN at issue (R152, R369). -/
def execPscan (h : Eh) (q p : BitVec 4) (s : State) : Host.Outcome State Fault Refusal :=
  engSlot .P h (.pscan h q p) s

/-- PSCORE at issue (R155, R370). -/
def execPscore (h : Eh) (p : BitVec 4) (s : State) : Host.Outcome State Fault Refusal :=
  engSlot .P h (.pscore h p) s

/-- XGET at issue (R398). -/
def execXget (h : Eh) (sp : BitVec 5) (x : BitVec 4) (s : State) : Host.Outcome State Fault Refusal :=
  engSlot .X h (.xget h sp x) s

/-- XMV at issue (R399). -/
def execXmv (h : Eh) (dp : BitVec 5) (x : XSrc) (s : State) : Host.Outcome State Fault Refusal :=
  engSlot .X h (.xmv h dp x) s

/-- XMVI at issue (R399). -/
def execXmvi (h : Eh) (dp : BitVec 5) (lt : Bool) (imm : BitVec 5) (s : State) : Host.Outcome State Fault Refusal :=
  engSlot .X h (.xmvi h dp lt imm) s

/-- ATOMM at issue (R190, R329). -/
def execAtomm (h : Eh) (d : BitVec 5) (op : BitVec 4) (s : State) : Host.Outcome State Fault Refusal :=
  engSlot .D h (.atomm h d op) s

/-- ATOMR at issue (R190, R329). -/
def execAtomr (h : Eh) (d : BitVec 5) (op : BitVec 4) (s : State) : Host.Outcome State Fault Refusal :=
  engSlot .D h (.atomr h d op) s

/-- CBAR at issue (R335). -/
def execCbar (h : Eh) (s : State) : Host.Outcome State Fault Refusal :=
  engSlot .D h (.cbar h) s

/-- CPY at issue (R218, R338). -/
def execCpy (h : Eh) (d : BitVec 5) (ac : BitVec 4) (ord : BitVec 2) (s : State) : Host.Outcome State Fault Refusal :=
  engSlot .D h (.cpy h d ac ord) s

/-- CPYG at issue (R218, R338). -/
def execCpyg (h : Eh) (d : BitVec 5) (ac : BitVec 4) (ord : BitVec 2) (s : State) : Host.Outcome State Fault Refusal :=
  engSlot .D h (.cpyg h d ac ord) s

/-- CPYS at issue (R218, R338). -/
def execCpys (h : Eh) (d : BitVec 5) (ac : BitVec 4) (ord : BitVec 2) (s : State) : Host.Outcome State Fault Refusal :=
  engSlot .D h (.cpys h d ac ord) s

/-- CPYX at issue (R218, R338). -/
def execCpyx (h : Eh) (d : BitVec 5) (ac : BitVec 4) (ord : BitVec 2) (s : State) : Host.Outcome State Fault Refusal :=
  engSlot .D h (.cpyx h d ac ord) s

/-- CRED at issue (R206, R340). -/
def execCred (h : Eh) (d : BitVec 5) (op : BitVec 4) (s : State) : Host.Outcome State Fault Refusal :=
  engSlot .D h (.cred h d op) s

/-- FENCE at issue (R188, R342). -/
def execFence (h : Eh) (scope : BitVec 3) (sc : Bool) (s : State) : Host.Outcome State Fault Refusal :=
  engSlot .D h (.fence h scope sc) s

/-- GDONE at issue (R266, R345). -/
def execGdone (h : Eh) (d : BitVec 5) (s : State) : Host.Outcome State Fault Refusal :=
  engSlot .D h (.gdone h d) s

/-- GTRIG at issue (R266, R345). -/
def execGtrig (h : Eh) (d : BitVec 5) (s : State) : Host.Outcome State Fault Refusal :=
  engSlot .D h (.gtrig h d) s

/-- NOTIFY at issue (R281, R361). -/
def execNotify (h : Eh) (d : BitVec 5) (s : State) : Host.Outcome State Fault Refusal :=
  engSlot .D h (.notify h d) s

/-- TOKJ at issue (R381, R382). -/
def execTokj (h : Eh) (s : State) : Host.Outcome State Fault Refusal :=
  engSlot .D h (.tokj h) s

end Sys2Proof.Machine
end

