-- ==== Sys2Proof/Machine/LSlot.lean ====
section
/-! DEFINITION. The L slot: vector loads and stores, scratchpad atomics, the tag table (R172 to R175, R324, R380,
R390 to R392). -/
namespace Sys2Proof.Machine

/-! ### Loads and stores -/

/-- The bytes of a vector register. -/
def vbytes (v : VReg) : List Byte := leBytes 1024 v.toNat

/-- The lanes of an indexed form that are not skipped: lane number and address. -/
def liveLanes (s : State) (base : BitVec 8) (vi : BitVec 10) (n : Nat) : List (Nat × Nat) :=
  (List.range n).filterMap fun i =>
    (laneAddr (s.rdBase base) (elem (s.rdV vi.toNat) i 32)).map fun a => (i, a.toNat)

/-- VLD (R390). -/
def execVld (g : Gd) (v : BitVec 10) (base : BitVec 8) (ct : BitVec 6) (off : BitVec 11) (s : State) :
    Host.Outcome State Fault Refusal :=
  runSlot (.vld g v base ct off) s fun s =>
    s.wrV v.toNat (BitVec.ofNat 8192 (leNat (spadRead s.view s.cur.strm (vAddr s base off).toNat 1024)))

/-- VLDE (R248, R390, R391). -/
def execVlde (g : Gd) (v : BitVec 10) (base : BitVec 8) (ct : BitVec 6) (off : BitVec 11) (s : State) :
    Host.Outcome State Fault Refusal :=
  runSlot (.vlde g v base ct off) s fun s =>
    let a := (vAddr s base off).toNat
    let r := RecordLen.ofWord (BitVec.ofNat 32 (leNat (spadRead s.view s.cur.strm a 4)))
    s.wrV v.toNat (BitVec.ofNat 8192 (leNat (expandRecord (spadRead s.view s.cur.strm a r.size))))

/-- VLDX (R392): a lane that is skipped keeps its element. -/
def execVldx (g : Gd) (v : BitVec 10) (base : BitVec 8) (ct : BitVec 6) (vi : BitVec 10) (li : Bool) (s : State) :
    Host.Outcome State Fault Refusal :=
  runSlot (.vldx g v base ct vi li) s fun s =>
    let x := (liveLanes s base vi 256).foldl
      (fun x p => setElem x p.1 32 (BitVec.ofNat 32 (leNat (spadRead s.view s.cur.strm p.2 4)))) (s.rdV v.toNat)
    let s := s.wrV v.toNat x
    if li then s.zero (vId vi) else s

/-- VST (R390): the bytes are withheld. -/
def execVst (g : Gd) (v : BitVec 10) (base : BitVec 8) (ct : BitVec 6) (l : Bool) (off : BitVec 11) (s : State) :
    Host.Outcome State Fault Refusal :=
  runSlot (.vst g v base ct l off) s fun s =>
    let s := s.spadWrite (vAddr s base off).toNat (vbytes (s.rdV v.toNat))
    if l then s.zero (vId v) else s

/-- VSTX (R392): in ascending lane order, so a later lane wins. -/
def execVstx (g : Gd) (v : BitVec 10) (base : BitVec 8) (ct : BitVec 6) (vi : BitVec 10) (li ld : Bool) (s : State) :
    Host.Outcome State Fault Refusal :=
  runSlot (.vstx g v base ct vi li ld) s fun s =>
    let x := s.rdV v.toNat
    let s := (liveLanes s base vi 256).foldl (fun s p => s.spadWrite p.2 (leBytes 4 (elem x p.1 32).toNat)) s
    let s := if ld then s.zero (vId v) else s
    if li then s.zero (vId vi) else s

/-! ### Scratchpad atomics -/

/-- A held atomic joins the others of the stream (R174). -/
def State.holdAtomic (s : State) (h : HeldAtomic) : State :=
  s.updStream s.cur fun st => { st with atoms := st.atoms ++ [h] }

/-- AADD (R173, R174, R324). -/
def execAadd (g : Gd) (v : BitVec 10) (base : BitVec 8) (ct : BitVec 6) (vi : BitVec 10) (t : BitVec 2) (s : State) :
    Host.Outcome State Fault Refusal :=
  runSlot (.aadd g v base ct vi t) s fun s =>
    let (n, w) := atomicShape t
    s.holdAtomic ⟨none, w, (liveLanes s base vi n).map fun p => (p.2, (elem (s.rdV v.toNat) p.1 (8 * w)).setWidth 64)⟩

/-- AADDF (R173, R174, R324). -/
def execAaddf (g : Gd) (v : BitVec 10) (base : BitVec 8) (ct : BitVec 6) (vi : BitVec 10) (t : BitVec 2) (s : State) :
    Host.Outcome State Fault Refusal :=
  runSlot (.aaddf g v base ct vi t) s fun s =>
    s.holdAtomic ⟨some t, 32, (liveLanes s base vi 256).map fun p => (p.2, (elem (s.rdV v.toNat) p.1 32).setWidth 64)⟩

/-- A write to the committed scratchpad by an L slot; its bytes are kept over those that the A slot of the bundle
withheld (R91, R175). -/
def slotCommitWrite (prot : Bool) (c : Core) (w : Strm) (a : Nat) (bs : List Byte) : Core :=
  let st := streamOf c w
  let wh := (List.range bs.length).foldl (fun m i => m.erase (a + i)) st.withheld
  coreSpadWrite (logSpad prot st.owner (putStream c w { st with withheld := wh }) a bs.length) a bs

/-- The lanes of ASWAP and ACAS, in ascending order (R173, R324): the new word of each from its lane and the word as
the lane before it left it; the core, and v with the old words. -/
def swapLanes (prot : Bool) (new : Nat → Nat → Option Nat) (strm : Strm) (w : Nat) :
    List (Nat × Nat) → Core × VReg → Core × VReg
  | [], r => r
  | (i, a) :: t, (c, v) =>
    let old := readLE c.spad a w
    let c := match new i old with
      | some x => slotCommitWrite prot c strm a (leBytes w x)
      | none => c
    swapLanes prot new strm w t (c, setElem v i (8 * w) (BitVec.ofNat (8 * w) old))

/-- An implicit checkpoint commits at the boundary after the bundle, before anything else that the bundle asks for (R175). -/
def State.ckptBehind (s : State) : State :=
  s.updStream s.cur fun st => { st with ckpt := some { st.ckpt.getD { before := st.nextId } with swap := true } }

/-- ASWAP and ACAS share this: they act on the committed scratchpad at issue. -/
def State.swapAll (s : State) (v : BitVec 10) (base : BitVec 8) (vi : BitVec 10) (t : BitVec 2)
    (new : Nat → Nat → Nat → Option Nat) : State :=
  let (n, w) := atomicShape t
  let r := swapLanes (s.logged s.me.owner) (new w) s.cur.strm w (liveLanes s base vi n) (s.core s.cur.core, s.rdV v.toNat)
  ((s.setCore s.cur.core r.1).wrV v.toNat r.2).ckptBehind

/-- ASWAP (R173, R175, R324). -/
def execAswap (g : Gd) (v : BitVec 10) (base : BitVec 8) (ct : BitVec 6) (vi : BitVec 10) (t : BitVec 2) (s : State) :
    Host.Outcome State Fault Refusal :=
  runSlot (.aswap g v base ct vi t) s fun s =>
    s.swapAll v base vi t fun w i _ => some (elem (s.rdV v.toNat) i (8 * w)).toNat

/-- ACAS (R173, R175, R324). -/
def execAcas (g : Gd) (v : BitVec 10) (base : BitVec 8) (ct : BitVec 6) (vi : BitVec 10) (t : BitVec 2) (s : State) :
    Host.Outcome State Fault Refusal :=
  runSlot (.acas g v base ct vi t) s fun s =>
    s.swapAll v base vi t fun w i old =>
      if old = (elem (s.rdV v.toNat) i (8 * w)).toNat then some (elem (s.rdV (v.toNat + 1)) i (8 * w)).toNat else none

/-! ### The tag table -/

/-- The lowest slot that holds a tag, all ones when there is none (R172). -/
def tagLookup (m : SMap TagEntry) (x : W64) : W64 :=
  match m.find? fun p => p.2.valid && p.2.tag == x with
  | some p => BitVec.ofNat 64 p.1
  | none => BitVec.allOnes 64

/-- A slot number of TAGW and TAGI; numbers outside 0 to 1023 are skipped. -/
def tagSlot (v : VReg) (i : Nat) : Option Nat :=
  let n := (elem v i 64).toNat
  if n < 1024 then some n else none

/-- TAGW and TAGI change the entries that the lanes name, in ascending order, so that a later lane wins (R172). -/
def tagWrite (m : SMap TagEntry) (v : VReg) (f : Nat → TagEntry → TagEntry) : SMap TagEntry :=
  (List.range 128).foldl (fun m i => match tagSlot v i with | some n => m.set n (f i (m.get n {})) {} | none => m) m

/-- TAGI clears VALID alone (R172, R380). -/
def execTagi (g : Gd) (v1 : BitVec 10) (ct : BitVec 6) (s : State) : Host.Outcome State Fault Refusal :=
  runSlot (.tagi g v1 ct) s fun s =>
    s.updRegs s.cur fun r => { r with tags := tagWrite r.tags (s.rdV v1.toNat) fun _ e => { e with valid := false } }

/-- TAGL (R172, R380). -/
def execTagl (g : Gd) (v1 v2 : BitVec 10) (ct : BitVec 6) (s : State) : Host.Outcome State Fault Refusal :=
  runSlot (.tagl g v1 v2 ct) s fun s =>
    s.wrV v1.toNat (ofElems 8192 64 ((List.range 128).map fun i => tagLookup s.src.regs.tags (elem (s.rdV v2.toNat) i 64)))

/-- TAGW (R172, R380). -/
def execTagw (g : Gd) (v1 v2 : BitVec 10) (ct : BitVec 6) (s : State) : Host.Outcome State Fault Refusal :=
  runSlot (.tagw g v1 v2 ct) s fun s =>
    s.updRegs s.cur fun r => { r with tags := tagWrite r.tags (s.rdV v1.toNat) fun i _ => ⟨true, elem (s.rdV v2.toNat) i 64⟩ }

end Sys2Proof.Machine
end

