-- ==== Sys2Proof/Machine/Vector.lean ====
section
/-! DEFINITION. The V slot (R383 to R389, R393, R394): lane functions, then one meaning for each form. -/
namespace Sys2Proof.Machine

/-! ### Lanes -/

/-- The 256 lanes of a vector register (R383). -/
def lanes (v : VReg) : List W32 := (List.range 256).map fun i => elem v i 32

/-- A lane-by-lane function of two sources and of vd as it stood at issue. -/
def mapLanes (f : W32 → W32 → W32 → W32) (x y z : VReg) : VReg :=
  ofElems 8192 32 ((List.range 256).map fun i => f (elem x i 32) (elem y i 32) (elem z i 32))

/-- A lane read as an integer: signed for `.I32`, unsigned for `.UI32` (R383). -/
def laneInt (vt : BitVec 3) (x : W32) : Int := if vt = 1 then x.toNat else x.toInt

/-- The lesser and the greater of two lanes (R384). -/
def laneMin (vt : BitVec 3) (x y : W32) : W32 :=
  if vt = 2 then f32Min x y else if laneInt vt x ≤ laneInt vt y then x else y

/-- The greater of two lanes (R384). -/
def laneMax (vt : BitVec 3) (x y : W32) : W32 :=
  if vt = 2 then f32Max x y else if laneInt vt x ≤ laneInt vt y then y else x

/-- x + y (R384). -/
def laneAdd (vt : BitVec 3) (x y : W32) : W32 := if vt = 2 then toF32 ((f32 x).add (f32 y)) else x + y

/-- x − y (R384). -/
def laneSub (vt : BitVec 3) (x y : W32) : W32 := if vt = 2 then toF32 ((f32 x).add (f32 y).negate) else x - y

/-- x × y (R384). -/
def laneMul (vt : BitVec 3) (x y : W32) : W32 := if vt = 2 then toF32 ((f32 x).mul (f32 y)) else x * y

/-- x × y + z, rounded once (R384). -/
def laneFma (vt : BitVec 3) (x y z : W32) : W32 :=
  if vt = 2 then toF32 (((f32 x).mul (f32 y)).add (f32 z)) else x * y + z

/-- The absolute value (R384). -/
def laneAbs (vt : BitVec 3) (x : W32) : W32 :=
  if vt = 2 then (if f32 x = .nan then 0x7FC00000 else x &&& 0x7FFFFFFF) else if x.msb then -x else x

/-- VSHR (R384). -/
def laneShr (vt : BitVec 3) (x y : W32) : W32 := wrap 32 (laneInt vt x / 2 ^ (y.toNat % 32))

/-- Red(j) of R394 over a list of lanes. -/
def reduce (op vt : BitVec 3) (l : List W32) : W32 :=
  match l with
  | [] => 0
  | x :: t =>
    if op = 0 then
      (if vt = 2 then toF32 (Num.sum (l.map f32)) else t.foldl (· + ·) x)
    else
      let f := if op = 1 then laneMax vt else laneMin vt
      if vt = 2 ∧ f32 x = .nan ∧ t = [] then 0x7FC00000 else t.foldl f x

/-- The exact running sums of a list of lanes (R394). -/
def runningSums (acc : Num) : List Num → List Num
  | [] => []
  | x :: t => acc.add x :: runningSums (acc.add x) t

/-- Every prefix reduction, in one pass (R394). -/
def scanLanes (op vt : BitVec 3) (l : List W32) : List W32 :=
  match l with
  | [] => []
  | x :: t =>
    if op = 0 ∧ vt = 2 then toF32 (f32 x) :: (runningSums (f32 x) (t.map f32)).map toF32
    else
      let f := if op = 0 then (· + ·) else if op = 1 then laneMax vt else laneMin vt
      let x := if vt = 2 ∧ f32 x = .nan then 0x7FC00000 else x
      (t.foldl (fun (p : W32 × List W32) y => (f p.1 y, f p.1 y :: p.2)) (x, [x])).2.reverse

/-- VPERM (R393). -/
def permLanes (x y : VReg) : VReg :=
  ofElems 8192 32 ((List.range 256).map fun i => elem x ((elem y i 32).toNat % 256) 32)

/-- Bit i of a lane guard, negated under GN2 (R387). -/
def guardBit (p : LaneMask) (n : Bool) (i : Nat) : Bool := flag p i != n

/-- VSEL (R387). -/
def selLanes (p : LaneMask) (n : Bool) (x y : VReg) : VReg :=
  ofElems 8192 32 ((List.range 256).map fun i => if guardBit p n i then elem x i 32 else elem y i 32)

/-- VCOMPACT (R387). -/
def compactLanes (p : LaneMask) (n : Bool) (x : VReg) : VReg :=
  ofElems 8192 32 (((List.range 256).filter (guardBit p n)).map fun i => elem x i 32)

/-- VCMP (R386). -/
def cmpLanes (cc vt : BitVec 3) (x y : VReg) : LaneMask :=
  ofElems 256 1 ((List.range 256).map fun i => bit1 (vcmpLane cc vt (elem x i 32) (elem y i 32)))

/-- VCVT (R388). -/
def cvtVec (frm dst : Fmt) (x : VReg) : VReg :=
  let n := 1024 / max frm.size dst.size
  let l := (List.range n).map fun i => BitVec.ofNat dst.width (convert frm dst (elem x i frm.width).toNat)
  ofElems 8192 dst.width l

/-- VBCAST (R385). -/
def bcastLane (s : State) : BSrc → W32
  | .com c => (s.src.regs.get .c (fld c 0 5).toNat).setWidth 32
  | .imm lt v => immOrLit s lt v 32

/-- A result for v(vd), then the marks of its sources (R80, R383). -/
def State.vresult (s : State) (vd : BitVec 10) (v : VReg) (marks : List VSrc) : State :=
  marks.foldl State.markV (s.wrV vd.toNat v)

/-- A V source. -/
def State.vs (s : State) (x : VSrc) : VReg := s.rdV x.r.toNat

/-- A form with two sources. -/
def State.v2 (s : State) (vd : BitVec 10) (va vb : VSrc) (f : W32 → W32 → W32 → W32) : State :=
  s.vresult vd (mapLanes f (s.vs va) (s.vs vb) (s.rdV vd.toNat)) [va, vb]

/-- A form with one source. -/
def State.v1 (s : State) (vd : BitVec 10) (va : VSrc) (f : W32 → W32) : State :=
  s.vresult vd (mapLanes (fun x _ _ => f x) (s.vs va) (s.vs va) (s.vs va)) [va]

/-! ### The meanings -/

/-- VABS (R384). -/
def execVabs (g : Gd) (vd : BitVec 10) (va : VSrc) (vt : BitVec 3) (s : State) : Host.Outcome State Fault Refusal :=
  runSlot (.vabs g vd va vt) s fun s => s.v1 vd va (laneAbs vt)

/-- VADD (R384). -/
def execVadd (g : Gd) (vd : BitVec 10) (va vb : VSrc) (vt : BitVec 3) (s : State) : Host.Outcome State Fault Refusal :=
  runSlot (.vadd g vd va vb vt) s fun s => s.v2 vd va vb (fun x y _ => laneAdd vt x y)

/-- VAND (R384). -/
def execVand (g : Gd) (vd : BitVec 10) (va vb : VSrc) (vt : BitVec 3) (s : State) : Host.Outcome State Fault Refusal :=
  runSlot (.vand g vd va vb vt) s fun s => s.v2 vd va vb (fun x y _ => x &&& y)

/-- VBCAST (R385). -/
def execVbcast (g : Gd) (vd : BitVec 10) (x : BSrc) (s : State) : Host.Outcome State Fault Refusal :=
  runSlot (.vbcast g vd x) s fun s => s.vresult vd (ofElems 8192 32 (List.replicate 256 (bcastLane s x))) []

/-- VCLAMP (R384). -/
def execVclamp (g : Gd) (vd : BitVec 10) (va vb : VSrc) (vt : BitVec 3) (s : State) : Host.Outcome State Fault Refusal :=
  runSlot (.vclamp g vd va vb vt) s fun s => s.v2 vd va vb (fun x y z => laneMin vt (laneMax vt z x) y)

/-- VCMP (R386). -/
def execVcmp (g : Gd) (vgd : BitVec 3) (va vb : VSrc) (cc vt : BitVec 3) (s : State) : Host.Outcome State Fault Refusal :=
  runSlot (.vcmp g vgd va vb cc vt) s fun s =>
    let p := cmpLanes cc vt (s.vs va) (s.vs vb)
    [va, vb].foldl State.markV (s.updRegs s.cur fun r => { r with vg := r.vg.set vgd.toNat p 0 })

/-- VCOMPACT (R387). -/
def execVcompact (g : Gd) (vd : BitVec 10) (vg : BitVec 3) (gn2 : Bool) (va : VSrc) (s : State) :
    Host.Outcome State Fault Refusal :=
  runSlot (.vcompact g vd vg gn2 va) s fun s =>
    s.vresult vd (compactLanes (s.src.regs.lane vg) gn2 (s.vs va)) [va]

/-- VCVT (R388). -/
def execVcvt (g : Gd) (vd : BitVec 10) (va : VSrc) (frm dst : BitVec 4) (s : State) : Host.Outcome State Fault Refusal :=
  runSlot (.vcvt g vd va frm dst) s fun s =>
    s.vresult vd (cvtVec ((Fmt.ofCode frm).getD .fp32) ((Fmt.ofCode dst).getD .fp32) (s.vs va)) [va]

/-- VEXP2 (R389). -/
def execVexp2 (g : Gd) (vd : BitVec 10) (va : VSrc) (vt : BitVec 3) (s : State) : Host.Outcome State Fault Refusal :=
  runSlot (.vexp2 g vd va vt) s fun s => s.v1 vd va f32Exp2

/-- VFMA (R384). -/
def execVfma (g : Gd) (vd : BitVec 10) (va vb : VSrc) (vt : BitVec 3) (s : State) : Host.Outcome State Fault Refusal :=
  runSlot (.vfma g vd va vb vt) s fun s => s.v2 vd va vb (laneFma vt)

/-- VMAX (R384). -/
def execVmax (g : Gd) (vd : BitVec 10) (va vb : VSrc) (vt : BitVec 3) (s : State) : Host.Outcome State Fault Refusal :=
  runSlot (.vmax g vd va vb vt) s fun s => s.v2 vd va vb (fun x y _ => laneMax vt x y)

/-- VMIN (R384). -/
def execVmin (g : Gd) (vd : BitVec 10) (va vb : VSrc) (vt : BitVec 3) (s : State) : Host.Outcome State Fault Refusal :=
  runSlot (.vmin g vd va vb vt) s fun s => s.v2 vd va vb (fun x y _ => laneMin vt x y)

/-- VMOV (R384). -/
def execVmov (g : Gd) (vd : BitVec 10) (va : VSrc) (vt : BitVec 3) (s : State) : Host.Outcome State Fault Refusal :=
  runSlot (.vmov g vd va vt) s fun s => s.v1 vd va id

/-- VMUL (R384). -/
def execVmul (g : Gd) (vd : BitVec 10) (va vb : VSrc) (vt : BitVec 3) (s : State) : Host.Outcome State Fault Refusal :=
  runSlot (.vmul g vd va vb vt) s fun s => s.v2 vd va vb (fun x y _ => laneMul vt x y)

/-- VOR (R384). -/
def execVor (g : Gd) (vd : BitVec 10) (va vb : VSrc) (vt : BitVec 3) (s : State) : Host.Outcome State Fault Refusal :=
  runSlot (.vor g vd va vb vt) s fun s => s.v2 vd va vb (fun x y _ => x ||| y)

/-- VPERM (R393). -/
def execVperm (g : Gd) (vd : BitVec 10) (va vb : VSrc) (vt : BitVec 3) (s : State) : Host.Outcome State Fault Refusal :=
  runSlot (.vperm g vd va vb vt) s fun s => s.vresult vd (permLanes (s.vs va) (s.vs vb)) [va, vb]

/-- VRCP (R389). -/
def execVrcp (g : Gd) (vd : BitVec 10) (va : VSrc) (vt : BitVec 3) (s : State) : Host.Outcome State Fault Refusal :=
  runSlot (.vrcp g vd va vt) s fun s => s.v1 vd va f32Rcp

/-- VRED (R394). -/
def execVred (g : Gd) (vd : BitVec 10) (va : VSrc) (op vt : BitVec 3) (s : State) : Host.Outcome State Fault Refusal :=
  runSlot (.vred g vd va op vt) s fun s =>
    s.vresult vd (ofElems 8192 32 [reduce op vt (lanes (s.vs va))]) [va]

/-- VRSQ (R389). -/
def execVrsq (g : Gd) (vd : BitVec 10) (va : VSrc) (vt : BitVec 3) (s : State) : Host.Outcome State Fault Refusal :=
  runSlot (.vrsq g vd va vt) s fun s => s.v1 vd va f32Rsq

/-- VSCAN (R394). -/
def execVscan (g : Gd) (vd : BitVec 10) (va : VSrc) (op vt : BitVec 3) (s : State) : Host.Outcome State Fault Refusal :=
  runSlot (.vscan g vd va op vt) s fun s =>
    s.vresult vd (ofElems 8192 32 (scanLanes op vt (lanes (s.vs va)))) [va]

/-- VSEL (R387). -/
def execVsel (g : Gd) (vd : BitVec 10) (vg : BitVec 3) (gn2 : Bool) (va vb : VSrc) (s : State) :
    Host.Outcome State Fault Refusal :=
  runSlot (.vsel g vd vg gn2 va vb) s fun s =>
    s.vresult vd (selLanes (s.src.regs.lane vg) gn2 (s.vs va) (s.vs vb)) [va, vb]

/-- VSHL (R384). -/
def execVshl (g : Gd) (vd : BitVec 10) (va vb : VSrc) (vt : BitVec 3) (s : State) : Host.Outcome State Fault Refusal :=
  runSlot (.vshl g vd va vb vt) s fun s => s.v2 vd va vb (fun x y _ => x <<< (y.toNat % 32))

/-- VSHR (R384). -/
def execVshr (g : Gd) (vd : BitVec 10) (va vb : VSrc) (vt : BitVec 3) (s : State) : Host.Outcome State Fault Refusal :=
  runSlot (.vshr g vd va vb vt) s fun s => s.v2 vd va vb (fun x y _ => laneShr vt x y)

/-- VSUB (R384). -/
def execVsub (g : Gd) (vd : BitVec 10) (va vb : VSrc) (vt : BitVec 3) (s : State) : Host.Outcome State Fault Refusal :=
  runSlot (.vsub g vd va vb vt) s fun s => s.v2 vd va vb (fun x y _ => laneSub vt x y)

/-- VXOR (R384). -/
def execVxor (g : Gd) (vd : BitVec 10) (va vb : VSrc) (vt : BitVec 3) (s : State) : Host.Outcome State Fault Refusal :=
  runSlot (.vxor g vd va vb vt) s fun s => s.v2 vd va vb (fun x y _ => x ^^^ y)

end Sys2Proof.Machine
end

