-- ==== Sys2Proof/Machine/Bundle.lean ====
section
/-! DEFINITION. One bundle: fetching it, issuing its slots and held repetitions together, choosing the next address,
and what its flags ask for (R66, R70, R74, R75, R77, R81, R92 to R96, R111, R112, R120, R194 to R196, R259, R313). -/
namespace Sys2Proof.Machine

/-! ### Fetch -/

/-- The bytes from `pc` to the end of its fetch line (R94). -/
def lineBytes (c : Core) (pc : Nat) : List Byte := readBytes c.prog pc (64 - pc % 64)

/-- The first header at or after `pc` that is not a fill header (R95, R96). -/
def skipFill (c : Core) (limit : Nat) : Nat → Nat → Nat
  | 0, pc => pc
  | fuel + 1, pc =>
    if pc < limit ∧ isFill (headerOf (readBytes c.prog pc 2)) then skipFill c limit fuel ((pc / 64 + 1) * 64) else pc

/-- A fetched bundle: its address, its next address, and the bundle, or the trap that fetching it raises. -/
structure Fetched where
  pc : W48
  npc : W48
  res : Except (Nat × BitVec 29) Bundle

/-- Fetch at `pc` from a program image of `limit` bytes (R94 to R96, R111, R259). -/
def fetchBundle (c : Core) (limit : Nat) (pc : W48) : Fetched :=
  let a := skipFill c limit 4096 pc.toNat
  let a48 : W48 := BitVec.ofNat 48 a
  if limit ≤ a then ⟨a48, a48, .error (1, 0)⟩
  else
    let bs := lineBytes c a
    let n := skipFill c limit 4096 (a + bundleLen (headerOf bs))
    match decodeBundle (n - a) bs with
    | .ok b => ⟨a48, BitVec.ofNat 48 n, .ok b⟩
    | .error r => ⟨a48, BitVec.ofNat 48 n, .error (2, BitVec.ofNat 29 r.subcode)⟩

/-! ### Slots -/

/-- A slot of a bundle: the meaning of its form. -/
def slotExec (i : Instr) (s : State) : Host.Outcome State Fault Refusal :=
  match i with
  | .br g off => execBr g off s
  | .brk g imm => execBrk g imm s
  | .brx g x => execBrx g x s
  | .call g kd off => execCall g kd off s
  | .fmt g v => execFmt g v s
  | .halt g => execHalt g s
  | .leave g => execLeave g s
  | .lit imm => execLit imm s
  | .loop g n exoff => execLoop g n exoff s
  | .mfs g kd sreg => execMfs g kd sreg s
  | .mts g x sreg => execMts g x sreg s
  | .opp g v => execOpp g v s
  | .phase g v => execPhase g v s
  | .rcm g v => execRcm g v s
  | .ret g x => execRet g x s
  | .stat g kd z => execStat g kd z s
  | .svc g imm => execSvc g imm s
  | .wait g t0 t1 t2 t3 => execWait g t0 t1 t2 t3 s
  | .add g ad s1 s2 w => execAdd g ad s1 s2 w s
  | .addi g ad s1 lt imm => execAddi g ad s1 lt imm s
  | .and g ad s1 s2 w => execAnd g ad s1 s2 w s
  | .clz g ad s1 w => execClz g ad s1 w s
  | .cmp g gd s1 s2 cc w => execCmp g gd s1 s2 cc w s
  | .div g ad s1 s2 w sg => execDiv g ad s1 s2 w sg s
  | .gand g gd n1 gs1 n2 gs2 => execGand g gd n1 gs1 n2 gs2 s
  | .gnot g gd n1 gs1 => execGnot g gd n1 gs1 s
  | .gor g gd n1 gs1 n2 gs2 => execGor g gd n1 gs1 n2 gs2 s
  | .ld g ad sb sz sx off => execLd g ad sb sz sx off s
  | .max g ad s1 s2 w sg => execMax g ad s1 s2 w sg s
  | .min g ad s1 s2 w sg => execMin g ad s1 s2 w sg s
  | .movi g ad lt imm => execMovi g ad lt imm s
  | .mul g ad s1 s2 w => execMul g ad s1 s2 w s
  | .mulh g ad s1 s2 w sg => execMulh g ad s1 s2 w sg s
  | .or g ad s1 s2 w => execOr g ad s1 s2 w s
  | .popc g ad s1 w => execPopc g ad s1 w s
  | .rem g ad s1 s2 w sg => execRem g ad s1 s2 w sg s
  | .sel g ad gn2 gs s1 s2 => execSel g ad gn2 gs s1 s2 s
  | .shl g ad s1 s2 w => execShl g ad s1 s2 w s
  | .shr g ad s1 s2 w => execShr g ad s1 s2 w s
  | .sra g ad s1 s2 w => execSra g ad s1 s2 w s
  | .st g sd sb sz off => execSt g sd sb sz off s
  | .sub g ad s1 s2 w => execSub g ad s1 s2 w s
  | .xfr g df di sf si l el => execXfr g df di sf si l el s
  | .xor g ad s1 s2 w => execXor g ad s1 s2 w s
  | .vabs g vd va vt => execVabs g vd va vt s
  | .vadd g vd va vb vt => execVadd g vd va vb vt s
  | .vand g vd va vb vt => execVand g vd va vb vt s
  | .vbcast g vd x => execVbcast g vd x s
  | .vclamp g vd va vb vt => execVclamp g vd va vb vt s
  | .vcmp g vgd va vb cc vt => execVcmp g vgd va vb cc vt s
  | .vcompact g vd vg gn2 va => execVcompact g vd vg gn2 va s
  | .vcvt g vd va frm dst => execVcvt g vd va frm dst s
  | .vexp2 g vd va vt => execVexp2 g vd va vt s
  | .vfma g vd va vb vt => execVfma g vd va vb vt s
  | .vmax g vd va vb vt => execVmax g vd va vb vt s
  | .vmin g vd va vb vt => execVmin g vd va vb vt s
  | .vmov g vd va vt => execVmov g vd va vt s
  | .vmul g vd va vb vt => execVmul g vd va vb vt s
  | .vor g vd va vb vt => execVor g vd va vb vt s
  | .vperm g vd va vb vt => execVperm g vd va vb vt s
  | .vrcp g vd va vt => execVrcp g vd va vt s
  | .vred g vd va op vt => execVred g vd va op vt s
  | .vrsq g vd va vt => execVrsq g vd va vt s
  | .vscan g vd va op vt => execVscan g vd va op vt s
  | .vsel g vd vg gn2 va vb => execVsel g vd vg gn2 va vb s
  | .vshl g vd va vb vt => execVshl g vd va vb vt s
  | .vshr g vd va vb vt => execVshr g vd va vb vt s
  | .vsub g vd va vb vt => execVsub g vd va vb vt s
  | .vxor g vd va vb vt => execVxor g vd va vb vt s
  | .aadd g v base ct vi t => execAadd g v base ct vi t s
  | .aaddf g v base ct vi t => execAaddf g v base ct vi t s
  | .acas g v base ct vi t => execAcas g v base ct vi t s
  | .aswap g v base ct vi t => execAswap g v base ct vi t s
  | .tagi g v1 ct => execTagi g v1 ct s
  | .tagl g v1 v2 ct => execTagl g v1 v2 ct s
  | .tagw g v1 v2 ct => execTagw g v1 v2 ct s
  | .vld g v base ct off => execVld g v base ct off s
  | .vlde g v base ct off => execVlde g v base ct off s
  | .vldx g v base ct vi li => execVldx g v base ct vi li s
  | .vst g v base ct l off => execVst g v base ct l off s
  | .vstx g v base ct vi li ld => execVstx g v base ct vi li ld s
  | .manch h z m => execManch h z m s
  | .mdrain h z m => execMdrain h z m s
  | .mma h z ma mb => execMma h z ma mb s
  | .mmas h z ma mb sc => execMmas h z ma mb sc s
  | .mzero h z m => execMzero h z m s
  | .pcheck h p => execPcheck h p s
  | .pdot h z q p => execPdot h z q p s
  | .pgrp h p => execPgrp h p s
  | .pscan h q p => execPscan h q p s
  | .pscore h p => execPscore h p s
  | .xget h sp x => execXget h sp x s
  | .xmv h dp x => execXmv h dp x s
  | .xmvi h dp lt imm => execXmvi h dp lt imm s
  | .atomm h d op => execAtomm h d op s
  | .atomr h d op => execAtomr h d op s
  | .cbar h => execCbar h s
  | .cpy h d ac ord => execCpy h d ac ord s
  | .cpyg h d ac ord => execCpyg h d ac ord s
  | .cpys h d ac ord => execCpys h d ac ord s
  | .cpyx h d ac ord => execCpyx h d ac ord s
  | .cred h d op => execCred h d op s
  | .fence h scope sc => execFence h scope sc s
  | .gdone h d => execGdone h d s
  | .gtrig h d => execGtrig h d s
  | .notify h d => execNotify h d s
  | .tokj h => execTokj h s
  | _ => .next s

/-- The slots of a bundle, one after another, each reading the view (R66). -/
def runSlots : List Instr → State → Host.Outcome State Fault Refusal
  | [], s => .next s
  | i :: t, s =>
    match slotExec i s with
    | .next s => runSlots t s
    | .fault f => .fault f
    | .refused r => .refused r

/-! ### Held repetitions -/

/-- The holds that repeat beside the given slots (R74, R75): engine slot and hold. -/
def repsOf (h : Holds) (l : List Instr) : List (Slot × Hold) :=
  let has (k : Slot) : Bool := l.any fun i => i.slot == some k
  let one (k : Slot) (x : Option Hold) : List (Slot × Hold) :=
    match x with
    | some y => if has k then [] else [(k, y)]
    | none => []
  one .M h.m ++ one .P h.p ++ one .X h.x ++ one .D h.d

/-- The registers that a repetition writes back. -/
def repWrites (r : Regs) (h : Hold) : List RegId := (advances r h.instr).map (·.1)

/-- One repetition (R74): the descriptors advance and are written back, the guard is evaluated, and the operation issues
with the advanced descriptors or is suppressed. -/
def repeatHold (s : State) (p : Slot × Hold) : State :=
  match p.2.instr.eh with
  | none => s
  | some h =>
    let adv := advances s.src.regs p.2.instr
    let put (r : Regs) : Regs := adv.foldl (fun r q => r.put q.1.file q.1.ix q.2) r
    let s := s.updRegs s.cur put
    if guardHolds s.src.regs h.gd then
      let v := putStream s.view s.cur.strm { s.src with regs := put s.src.regs }
      let t := issueOp p.2.lit p.1 h p.2.instr (s.setFrame { s.frame with view := some v })
      t.setFrame s.frame
    else suppressOp h s

/-! ### Checks of the whole bundle at issue -/

/-- The scans that a PDOT reads: q(n) to q(n + NTM) (R153). -/
def qReads (r : Regs) : Instr → List RegId
  | .pdot _ _ q p => (List.range ((fld (r.get .p p.toNat) 52 4).toNat + 1)).map fun t => ⟨.q, q.toNat + t, none⟩
  | _ => []

/-- The scan that a PSCAN writes (R152). -/
def qWrites : Instr → List RegId
  | .pscan _ q _ => [⟨.q, q.toNat, none⟩]
  | _ => []

/-- The registers that a bundle reads for the group check (R70): its slots and its repetitions, the scans of their operations among them. -/
def bundleReads (r : Regs) (l : List Instr) (reps : List (Slot × Hold)) : List RegId :=
  (l ++ reps.map fun p => p.2.instr).flatMap fun i => i.reads ++ qReads r i

/-- The registers that a bundle writes for the group check (R70); token registers are left out of it (log 46). -/
def bundleWrites (r : Regs) (l : List Instr) (reps : List (Slot × Hold)) : List RegId :=
  (reps.flatMap fun p => repWrites r p.2) ++ (l ++ reps.map fun p => p.2.instr).flatMap fun i => i.writes ++ qWrites i

/-- Subcode 9 at issue: a slot writes a register that a repetition writes back (R112). -/
def heldClash (r : Regs) (l : List Instr) (reps : List (Slot × Hold)) : Bool :=
  reps.any fun p => l.any fun i => clash (repWrites r p.2) i.writes

/-- Subcode 10: the bundle completes a dependence inside its group (R70). -/
def groupClash (st : Stream) (rd wr : List RegId) : Bool :=
  clash wr (st.groupR ++ st.groupW) || clash rd st.groupW

/-- The operations that a bundle issues, in the order of their slots (R74, R286): its own, and its held repetitions'. -/
def issuing (l : List Instr) (reps : List (Slot × Hold)) : List Instr :=
  if reps.isEmpty then l
  else [Slot.K, .A, .V, .L, .M, .P, .X, .D].flatMap fun k =>
    (l ++ reps.map (·.2.instr)).filter fun i => i.slot == some k

/-- Every trap of a bundle at issue: subcode 9 before 5 (log 46) before 10 (R112) within cause 2. A held repetition whose guard
holds raises what its slot would (R74, R130, R180). -/
def bundleTraps (s : State) (l : List Instr) (reps : List (Slot × Hold)) : List (Nat × BitVec 29) :=
  let r := s.src.regs
  (if heldClash r l reps then [(2, 9)] else []) ++ issueTraps s (issuing l reps) ++
    (if groupClash s.src (bundleReads r l reps) (bundleWrites r l reps) then [(2, 10)] else [])

/-! ### Gangs -/

/-- The K-slot forms that the lead alone decides (R195). -/
def leadOnly : Instr → Bool
  | .br .. | .brk .. | .brx .. | .call .. | .ret .. | .loop .. | .leave .. | .halt .. | .svc .. => true
  | _ => false

/-- The K slot of a bundle that the lead alone decides. -/
def leadSlot (l : List Instr) : Option Instr := l.find? leadOnly

/-- What a member does for a K slot of the lead: the marks of its sources and the return address of a CALL. -/
def memberK (s : State) (item : ShroudItem) : State :=
  match leadSlot item.bundle.slots with
  | none => s
  | some i =>
    if item.on then
      let s := match item.kd with
        | some (k, v) => s.wr .k k.toNat v
        | none => s
      i.srcs.foldl (fun s p => s.markSrc p.1 p.2) s
    else s

/-! ### Cycles -/

/-- W(c) of R312, in pJ; `slots` says whether a slot is present. -/
def weight (ew : BitVec 5) (slots : Bool) : Nat :=
  let c := ew.toNat
  if c = 31 then (if slots then 1048576 else 0)
  else if c = 0 then 0
  else if c % 2 = 1 then 32 * 2 ^ ((c - 1) / 2)
  else 45 * 2 ^ ((c - 2) / 2)

/-- Whether a stream counts cycles for SAFEMAX (R289): from its launch on, also at its pre-emption boundary, in a debug stop and in a crash of
Nymen; not while it is frozen for a recovery point or stopped by a trap, and no more once it has executed HALT (R346). -/
def Stream.counting (st : Stream) : Bool :=
  (st.run == .running || st.run == .saved) && !st.frozen.recovery && !st.ckpt.any fun q => q.after == .halt

/-- The count of a stream exceeds SAFEMAX.CYCLES, and cause 10 is due (R289); a stream that a crash of Nymen or a debug stop has frozen takes it
once it goes on (R298, R303, log 33). -/
def Stream.overdue (st : Stream) : Bool :=
  st.counting && st.frozen == {} && decide ((fld st.sys.safemax 0 32).toNat < st.sys.safeCount)

/-- The virtual engines of a core whose substitutes are in progress: from the start of an operation to its finish (R125, R143). -/
def Core.subs (c : Core) : Bool × Bool :=
  let on (l : List Op) : Bool := l.any fun o => o.stage == .started && o.sub
  (on (c.main.mq ++ c.miz.mq), on (c.main.pq ++ c.miz.pq))

/-- The current cycle ends, and n - 1 more in which nothing issues: which were lane cycles, and whose turn the next one is (R125). The turn starts with vM when both substitutes become in progress, and passes on after each lane cycle. -/
def laneNext (n : Nat) (busy : Bool × Bool) (l : LaneState) : LaneState :=
  let both := busy.1 && busy.2
  let lanes := if l.used then n - 1 else n
  let turn := if both && l.both then l.turn else .m
  { used := false, dry := if lanes = 0 then min 3 (l.dry + 1) else 0, both
    turn := if both && lanes % 2 = 1 then (if turn = .m then .p else .m) else turn }

/-- A bundle with a V slot stalls in the current cycle: a substitute is in progress, and the three cycles before were no lane
cycles (R125). -/
def laneStall (c : Core) (occ : List Slot) : Bool :=
  occ.contains .V && (c.subs.1 || c.subs.2) && decide (3 ≤ c.lane.dry)

/-- The bucket after `n` refills (R313). -/
def refill (rate burst b : Int) (n : Nat) : Int := if n = 0 then b else min (b + rate * n) burst

/-- The bucket over `n` cycles, the `j`-th of which is the first after the meter's window: there the excess of the window's report over its
declared weights is debited, which may make the bucket negative, and a new window begins (R315). -/
def meterTick (j n : Nat) (rate burst : Int) (p : CorePower) : CorePower :=
  if n < j then { p with bucket := refill rate burst p.bucket n }
  else
    let excess : Nat := p.used.getD 0 - p.declared
    { p with bucket := refill rate burst (refill rate burst p.bucket j - excess) (n - j), used := none, declared := 0 }

/-- `n` cycles of a core pass with no issue (R125, R289, R308, R311, R313, R315, R356). -/
def tick (c : Core) (n : Nat) : Core :=
  let up (st : Stream) : Stream :=
    if st.counting then { st with sys := { st.sys with safeCount := st.sys.safeCount + n } } else st
  let busy := c.subs
  let rate : Int := (fld c.power.pgrant 0 10).toNat
  let burst : Int := (fld c.power.pgrant 24 24).toNat
  countDue n { c with
    main := up c.main, miz := up c.miz, cycle := c.cycle + BitVec.ofNat 64 n, half := none, quiet := min 1024 (c.quiet + n)
    swap := if n = 0 then c.swap else false
    lane := if n = 0 then c.lane else laneNext n busy c.lane
    power := meterTick (64 - c.cycle.toNat % 64) n rate burst c.power }

/-- The bucket of R313 lets a bundle of weight `w` issue in the cycle that has just been refilled. -/
def affords (c : Core) (w : Nat) : Bool := decide (0 ≤ c.power.bucket) && decide ((w : Int) ≤ c.power.bucket)

/-- The bucket pays. -/
def pay (c : Core) (w : Nat) : Core := { c with power := { c.power with bucket := c.power.bucket - w, declared := c.power.declared + w } }

/-! ### The bundle -/

/-- Whether a stream is at a boundary at which it may issue: running, with no checkpoint, trap, phase or freeze
pending, and its count of R289 within SAFEMAX. -/
def Stream.mayIssue (st : Stream) : Bool :=
  st.run == .running && st.ckpt.isNone && st.traps.isEmpty && st.phaseWait.isNone && st.frozen == {} &&
    st.shroud.isEmpty && decide (st.sys.safeCount ≤ (fld st.sys.safemax 0 32).toNat)

/-- Before its slots run: the bundle gets its issue number, the FMT shadow counts (R69), and the view is taken. -/
def openBundle (s : State) (pc npc : W48) (lit : Option W32) : State :=
  let s := s.updStream s.cur fun st =>
    let r := st.regs
    let r := match r.fmtPend with
      | some (v, 0) => { r with fmtr := v, fmtPend := none }
      | some (v, n + 1) => { r with fmtPend := some (v, n) }
      | none => r
    { st with regs := { r with pc }, bundleNo := st.bundleNo + 1 }
  s.setFrame { view := some (s.core s.cur.core), lit, npc := some npc }

/-- The flags' requests: SAFE restarts the count of R289 and lets a recovery point, a pre-emption or a
debug stop land (R89, R292, R299, R303), CKPT asks for a
checkpoint (R81). `first` is the identifier of the bundle's first operation: a checkpoint of `%ckpt` waits for the
operations before the bundle, any other for the bundle's too. -/
def flagRequests (f : Flags) (first : Nat) (st : Stream) : Stream :=
  let st := if f.safe then { st with sys := { st.sys with safeCount := 0 } } else st
  let after : AfterCkpt := (st.ckpt.map (·.after)).getD .go
  let swap := st.ckpt.any CkptReq.swap
  let lands := f.safe && after == .go
  let svc : Bool := match after with
    | .trap t => t.cause == 12
    | .leaveHandler => true
    | _ => false
  if lands && st.freezeReq then { st with ckpt := some { before := st.nextId, after := .freeze, swap } }
  else if lands && st.preempt then { st with ckpt := some { before := st.nextId, after := .preempt, swap } }
  else if lands && st.debugReq then { st with ckpt := some { before := st.nextId, after := .debug, swap } }
  else if st.ckpt.isSome then { st with ckpt := some { before := if svc then first else st.nextId, after, swap } }
  else if f.ckpt then { st with ckpt := some { before := first } }
  else st

/-- The next address of a bundle whose slots have run (R77): the stream, and whether it is a taken transfer. -/
def closePC (fr : Frame) (npc : W48) (st : Stream) : Stream × Bool :=
  if fr.jumped then (st, true)
  else
    let n := nextPC npc st.regs.loops
    ({ st with regs := { st.regs with pc := n.1, loops := n.2 } }, fr.taken || n.1 != npc)

/-- After its slots have run: the group and the holds (R70, R75). `unhold` says that BRK, SVC or HALT ends the holds alone. -/
def closeGroup (taken unhold stop : Bool) (rd wr : List RegId) (st : Stream) : Stream :=
  let st := if unhold then { st with regs := { st.regs with holds := {} } } else st
  if taken then { st with regs := { st.regs with holds := {} }, groupR := [], groupW := [] }
  else if stop then { st with groupR := [], groupW := [] }
  else { st with groupR := rd ++ st.groupR, groupW := wr ++ st.groupW }

/-- The bundle of one stream runs, with no wait and no trap left; `item` is given for a member of a gang, which takes the
lead's transfer. -/
def runBundle (s : State) (b : Bundle) (pc npc : W48) (item : Option ShroudItem) :
    Host.Outcome State Fault Refusal :=
  let own := if item.isSome then b.slots.filter fun i => !leadOnly i else b.slots
  let reps := repsOf s.me.regs.holds b.slots
  let rd := bundleReads s.me.regs b.slots reps
  let wr := bundleWrites s.me.regs b.slots reps
  let lit := b.slots.findSome? fun i => match i with | .lit v => some v | _ => none
  let first := s.me.nextId
  let s := openBundle s pc npc lit
  match runSlots own s with
  | .next s =>
    let s := reps.foldl repeatHold s
    let s := match item with
      | some it => memberK s it
      | none => s
    let fr := s.frame
    let s := s.updStream s.cur fun st =>
      let (st, taken) := match item with
        | some it =>
          ({ st with regs := { st.regs with pc := it.next, loops := it.loops }
                     ckpt := it.after.elim st.ckpt fun a => some { before := st.nextId, after := a, swap := st.ckpt.any CkptReq.swap } }, it.taken)
        | none => closePC fr npc st
      let unhold := match item with
        | some it => it.after.isSome
        | none => fr.unhold
      flagRequests b.flags first (closeGroup taken unhold b.flags.stop rd wr { st with ckptAt := none })
    .next s
  | .fault f => .fault f
  | .refused r => .refused r

/-- The member's copy of what the lead decided (R195). -/
def shroudItem (s : State) (b : Bundle) (pc npc : W48) : ShroudItem :=
  let st := s.me
  let fr := s.frame
  let src := s.src.regs
  let k := leadSlot b.slots
  { bundle := b, pc, npc, next := st.regs.pc, loops := st.regs.loops
    taken := fr.taken || fr.jumped || (!fr.jumped && decide (st.regs.pc ≠ npc))
    on := (k.map fun i => guardHolds src i.guard).getD false
    kd := match k with
      | some (.call g kd _) => if guardHolds src g then some (kd, st.regs.get .k kd.toNat) else none
      | _ => none
    after := match st.ckpt.map CkptReq.after with
      | some .go | some .preempt | some .freeze | some .debug | none => none
      | some a => some a }

/-- Whether every member of a gang but the lead is ready for the lead's next bundle. The model keeps the members of a gang
within one bundle of one another (log 20). -/
def membersReady (s : State) (r : SRef) : Bool :=
  (s.gang r).all fun m => m == r || (s.stream m).mayIssue

/-- The waits of a bundle in every member (R195). -/
def gangPrep (s : State) (r : SRef) (l : List Instr) : Prep :=
  ((s.gang r).map fun m =>
    let t := { s with cur := m }
    let reps := repsOf t.me.regs.holds l
    let own := if m == r then l else l.filter fun i => !leadOnly i
    prepAll t (own ++ reps.map (·.2.instr))).foldl Prep.join .go

/-- The slots that a bundle and its repetitions occupy, apart from M and P (R120). -/
def occupied (l : List Instr) (reps : List (Slot × Hold)) : List Slot :=
  (l.filterMap Instr.slot ++ reps.map (·.1)).filter fun k => k != .M && k != .P

/-- The cycle that the other stream of the core has begun, when stream `w` has not yet had its turn in it (R120). -/
def sharedCycle (c : Core) (w : Strm) : Option HalfCycle := c.half.filter fun h => h.first != w

/-- What a turn of stream `w` finds (R120, R121, R313): the core, in a new cycle or in the one that the other stream has begun;
whether R120 alone keeps a Mizzen bundle with slots `occ` back; whether the core takes a stall bundle in that cycle. A Main bundle
that collides waits for the next cycle, in which it goes first. -/
structure TurnStart where
  core : Core
  shared : Bool
  blocked : Bool
  stall : Bool

/-- The start of a turn; a bundle with a V slot may have to leave the cycle to the substitutes (R125). -/
def startTurn (c : Core) (w : Strm) (occ : List Slot) : TurnStart :=
  let fresh : TurnStart := let t := tick c 1; ⟨t, false, false, laneStall t occ⟩
  match sharedCycle c w with
  | none => fresh
  | some h =>
    let c := { c with half := none }
    if h.stall || laneStall c occ then ⟨c, true, false, true⟩
    else if occ.any h.occ.contains then
      if w = .miz then ⟨c, true, true, false⟩ else fresh
    else ⟨c, true, false, false⟩

/-- The Mizzen has been kept back for 16 consecutive cycles, the last of them the current one (R121). -/
def Core.swapDue (c : Core) : Bool := decide (16 ≤ c.mizBlocked) && c.mizAt == c.cycle

/-- The count of R121 after a cycle in which R120 alone kept a Mizzen bundle back; it goes on only from the cycle before. -/
def Core.countBlocked (c : Core) : Core :=
  { c with mizBlocked := (if c.mizAt + 1 = c.cycle then c.mizBlocked else 0) + 1, mizAt := c.cycle }

/-- The core after a turn in which the bundle did not issue. The count of R121 restarts unless R120 alone kept a Mizzen bundle
back. `whole` says that the cycle is a whole-core stall (R313). -/
def TurnStart.pass (t : TurnStart) (w : Strm) (whole : Bool) : Core :=
  let c := if t.blocked then t.core.countBlocked else if w = .miz then { t.core with mizBlocked := 0 } else t.core
  { c with
    half := if t.shared then none else some { first := w, stall := whole } }

/-- The core after a turn in which a bundle with slots `occ` and weight `w` issues. -/
def TurnStart.issue (t : TurnStart) (st : Strm) (occ : List Slot) (w : Nat) : Core :=
  let c := pay t.core w
  { c with
    quiet := 0
    mizBlocked := if st = .miz then 0 else c.mizBlocked
    lane := { c.lane with used := c.lane.used || occ.contains .V }
    half := if t.shared then none else some { first := st, occ } }

/-- A stream as it stands before a bundle at `pc` is checked at issue: PC past its fill headers, and the next address (R95, R96). -/
def State.atBundle (s : State) (pc npc : W48) : State :=
  (s.updRegs s.cur fun r => { r with pc }).setFrame { s.frame with npc := some npc }

/-- Whether a bundle holds an OPP that would act in the stream that issues (R310). -/
def hasOpp (s : State) (l : List Instr) : Bool :=
  l.any fun i => (match i with | .opp .. => true | _ => false) && guardHolds s.src.regs i.guard

/-- Of a bundle that holds an ASWAP or ACAS, the trap that a member of the gang other than the lead would raise at issue (R175): it is detected
before any member's atomic acts. -/
def memberTrap (s : State) (r : SRef) (l : List Instr) (pc npc : W48) : Option (SRef × Nat × BitVec 29) :=
  let own := l.filter fun i => !leadOnly i
  let at_ (m : SRef) : State := { s with cur := m }.atBundle pc npc
  let swaps (m : SRef) : Bool := own.any fun i => Instr.swaps i && guardHolds (s.stream m).regs i.guard
  if (s.gang r).any swaps then
    ((s.gang r).filter (· != r)).findSome? fun m =>
      (lowest (bundleTraps (at_ m) own (repsOf (s.stream m).regs.holds l))).map fun x => (m, x.1, x.2)
  else none

/-- The lead's, or a lone stream's, bundle at issue: it waits, asks for an implicit checkpoint, raises a trap, or
issues. An OPP also waits for a transition that begins in this cycle (R311). -/
def issueBundle (s : State) (b : Bundle) (pc npc : W48) : Host.Outcome State Fault Refusal :=
  let r := s.cur
  let w := weight b.flags.ew (!b.slots.isEmpty)
  let reps := repsOf s.me.regs.holds b.slots
  let occ := occupied b.slots reps
  let t := startTurn (s.core r.core) r.strm occ
  match gangPrep s r b.slots with
  | .stall => .next (s.setCore r.core ({ t with blocked := false }.pass r.strm false))
  | .ckpt => .next ((s.gang r).foldl (fun s m => { State.askCkpt { s with cur := m } with cur := r }) s)
  | .room => .next s.freezeHere
  | .go =>
    if t.stall || t.blocked || (hasOpp s b.slots && t.core.power.trans.isSome) then .next (s.setCore r.core (t.pass r.strm false))
    else if !affords t.core w then .next (s.setCore r.core (t.pass r.strm true))
    else
      match lowest (bundleTraps (s.atBundle pc npc) b.slots reps), memberTrap s r b.slots pc npc with
      | some x, _ => .next (s.raise r x.1 x.2 pc)
      | none, some (m, c, d) => .next (s.raise m c d pc)
      | none, none =>
        match runBundle (s.setCore r.core (t.issue r.strm occ w)) b pc npc none with
        | .next s =>
          let item := shroudItem s b pc npc
          let s := (s.gang r).foldl (fun s m =>
            if m == r then s else s.updStream m fun st => { st with shroud := st.shroud ++ [item] }) s
          .next (s.setFrame {})
        | .fault f => .fault f
        | .refused r => .refused r

/-- Whether a stream can issue on its own: it is at a boundary, and leads its gang. -/
def canIssue (s : State) (r : SRef) : Bool :=
  (s.stream r).mayIssue && ((s.stream r).launch.getD {}).gpos == 0 && membersReady s r

/-- The next bundle of a stream. -/
def nextBundle (s : State) (r : SRef) : Fetched :=
  fetchBundle (s.core r.core) (64 * ((s.stream r).launch.getD {}).tlen) (s.stream r).regs.pc

/-- Whether the cycle considers a bundle of Main first: it waits for nothing and traps on nothing (R120). A bucket that does not afford it
then stalls the whole core (R313). -/
def mainReady (s : State) (core : Nat) : Bool :=
  let r : SRef := ⟨core, .main⟩
  let s := ({ s with cur := r }).setFrame {}
  canIssue s r &&
    match nextBundle s r with
    | ⟨pc, npc, .ok b⟩ =>
      let reps := repsOf s.me.regs.holds b.slots
      let t := startTurn (s.core core) .main (occupied b.slots reps)
      gangPrep s r b.slots == .go && !t.stall && (lowest (bundleTraps (s.atBundle pc npc) b.slots reps)).isNone
    | _ => false

/-- A member of a gang has a bundle on the Shroud that it can execute. -/
def Stream.memberDue (st : Stream) : Bool := !st.shroud.isEmpty && st.run == .running && st.traps.isEmpty && st.ckpt.isNone

/-- The stream that has the turn given to `r` (R120, R121): in a new cycle a Main that is ready goes before the Mizzen, unless the
order is reversed; then Main lets a Mizzen that can issue, or execute its copy of a gang's bundle, go first. A turn of Main waits for a swap
that is due. -/
def turnOf (s : State) (r : SRef) : Option SRef :=
  let c := s.core r.core
  match r.strm with
  | .main => if c.swapDue || (c.swap && (c.miz.memberDue || canIssue s ⟨r.core, .miz⟩)) then none else some r
  | .miz => if (sharedCycle c .miz).isNone && !c.swapDue && !c.swap && (c.main.memberDue || mainReady s r.core) then some ⟨r.core, .main⟩ else some r

/-- A stream fetches at its PC and issues (R61). -/
def issueFrom (s : State) (r : SRef) : Host.Outcome State Fault Refusal :=
  let s := ({ s with cur := r }).setFrame {}
  if canIssue s r then
    let f := nextBundle s r
    match f.res with
    | .error t => .next (s.raise r t.1 t.2 f.pc)
    | .ok b => issueBundle s b f.pc f.npc
  else .next s

/-- The turn of a stream; nothing happens while it may not issue. -/
def issueTurn (s : State) (r : SRef) : Host.Outcome State Fault Refusal :=
  if r.core < numCores then
    match turnOf s r with
    | some q => issueFrom s q
    | none => .next ({ s with cur := r }.setFrame {})
  else .fault .noSuchCore

/-- A cycle in which a stream waits on a latency of R67 or R68 and does not issue (log 4). -/
def stallTurn (s : State) (r : SRef) : Host.Outcome State Fault Refusal :=
  if r.core < numCores then
    if !s.gated r.core && (canIssue s r || (s.stream r).memberDue) then
      .next (s.updCore r.core fun c => ({ startTurn c r.strm [] with blocked := false }).pass r.strm false)
    else .next s
  else .fault .noSuchCore

/-- EMPTY_BUNDLE (R74, R95): an empty bundle of the issuing stream, which repeats every armed hold and obeys its flags. It
stands at the stream's PC and is 2 bytes long; its next address lies after the fill headers that follow it (R96). It takes its turn as any
bundle does (R120, R121). -/
def execEmptyBundle (f : Flags) (s : State) : Host.Outcome State Fault Refusal :=
  if s.cur.core < numCores then
    let s := s.setFrame {}
    let st := s.me
    if st.mayIssue && turnOf s s.cur == some s.cur then
      if f.ew = 31 then .next (s.raise s.cur 2 2 st.regs.pc)
      else issueBundle s ⟨f, []⟩ st.regs.pc (BitVec.ofNat 48
        (skipFill (s.core s.cur.core) (64 * (st.launch.getD {}).tlen) 4096 (st.regs.pc + 2).toNat))
    else .next s
  else .fault .noSuchCore

/-- GANG_MEMBER_EXECUTE (R194 to R196): member `r` executes its copy of the oldest bundle on the Shroud with its own
registers; a trap of it is raised with its position. Its prep was awaited before the lead issued; a transition that began since makes an OPP
wait (R311). -/
def execGangMemberExecute (r : SRef) (s : State) : Host.Outcome State Fault Refusal :=
  if r.core < numCores then
    let st := s.stream r
    match st.shroud with
    | [] => .next s
    | it :: rest =>
      if st.memberDue && turnOf s r == some r then
        let old := s.cur
        let s := ({ s with cur := r }).setFrame {}
        let w := weight it.bundle.flags.ew (!it.bundle.slots.isEmpty)
        let reps := repsOf s.me.regs.holds it.bundle.slots
        let own := it.bundle.slots.filter fun i => !leadOnly i
        let occ := occupied it.bundle.slots reps
        let t := startTurn (s.core r.core) r.strm occ
        if t.stall || t.blocked || (hasOpp s own && t.core.power.trans.isSome) then .next { s.setCore r.core (t.pass r.strm false) with cur := old }
        else if !affords t.core w then .next { s.setCore r.core (t.pass r.strm true) with cur := old }
        else
          match lowest (bundleTraps (s.atBundle it.pc it.npc) own reps) with
          | some x => .next { s.raise r x.1 x.2 it.pc with cur := old }
          | none =>
            match runBundle (s.setCore r.core (t.issue r.strm occ w)) it.bundle it.pc it.npc (some it) with
            | .next s => .next { (s.updStream r fun st => { st with shroud := rest }).setFrame {} with cur := old }
            | .fault f => .fault f
            | .refused x => .refused x
      else .next s
  else .fault .noSuchCore

end Sys2Proof.Machine
end

