-- ==== Sys2Proof/Machine/Image.lean ====
section
/-! DEFINITION. The words of a context image (R293): reading them, and writing them as a handler or the debugger does (R288, R303). -/
namespace Sys2Proof.Machine

/-! ### Frames: PC, loop stack, armed holds -/

/-- An armed hold (R293). -/
def holdWord (h : Option Hold) : W64 :=
  match h with
  | some x => BitVec.ofNat 64 (2 ^ 63 + (encode x.instr).toNat)
  | none => 0

/-- The hold of an engine slot after a write of its word. A hold keeps the literal that it took (R74), which the image does not show; a word
that is no form of the slot changes nothing (log 51). -/
def holdOf (k : Slot) (old : Option Hold) (w : W64) : Option Hold :=
  if flag w 63 then
    match decodeSlot k (fld w 0 48) with
    | .ok i => some ⟨i, old.bind Hold.lit⟩
    | .error _ => old
  else none

/-- Word `n` of PC, LDEPTH, the loop stack and the armed holds of M, P, X and D: 144 bytes. -/
def TrapFrame.word (f : TrapFrame) (n : Nat) : W64 :=
  if n = 0 then f.pc.setWidth 64
  else if n = 1 then BitVec.ofNat 64 f.loops.length
  else if n < 14 then loopHalf f.loops ((n - 2) / 2) (n % 2)
  else holdWord (match n with | 14 => f.holds.m | 15 => f.holds.p | 16 => f.holds.x | _ => f.holds.d)

/-- A loop entry with half `h` replaced (R79). -/
def LoopEntry.setHalf (e : LoopEntry) (h : Nat) (v : W64) : LoopEntry :=
  let w : W128 := setElem e.word h 64 v
  ⟨fld w 96 32, fld w 48 48, fld w 0 48⟩

/-- The frame after a write of word `n`. A loop entry at or above LDEPTH is not changed. -/
def TrapFrame.put (f : TrapFrame) (n : Nat) (v : W64) : TrapFrame :=
  if n = 0 then { f with pc := fld v 0 48 }
  else if n = 1 then
    let d := min 6 v.toNat
    { f with loops := List.replicate (d - f.loops.length) {} ++ f.loops.drop (f.loops.length - d) }
  else if n < 14 then
    { f with loops := (f.loops.reverse.modify ((n - 2) / 2) fun e => e.setHalf (n % 2) v).reverse }
  else match n with
    | 14 => { f with holds := { f.holds with m := holdOf .M f.holds.m v } }
    | 15 => { f with holds := { f.holds with p := holdOf .P f.holds.p v } }
    | 16 => { f with holds := { f.holds with x := holdOf .X f.holds.x v } }
    | _ => { f with holds := { f.holds with d := holdOf .D f.holds.d v } }

/-! ### Tokens -/

/-- A token register (R163). -/
def tokenWord (st : Stream) (n : Nat) : W16 :=
  let g := st.gen (if n = 0 then 0 else st.regs.t.get n 0)
  BitVec.ofNat 16 ((if g.set then 256 else 0) + 64 * g.bind.toNat + g.status % 64)

/-- Write a token register: the state of its current generation, or of a new one when no producer has issued since the launch. t0 stays. -/
def putToken (st : Stream) (n : Nat) (v : W16) : Stream :=
  if n = 0 ∨ tokenWord st n = v then st
  else
    let g : Gen := ⟨flag v 8, fld v 6 2, (fld v 0 6).toNat⟩
    let id := st.regs.t.get n 0
    if id ≠ 0 then { st with gens := st.gens.set id g {} }
    else
      let (id, st) := newGen st (BitVec.ofNat 6 n)
      { st with gens := st.gens.set id g {} }

/-! ### Operations, fans, tiles -/

/-- An entry of the saved operations at 0x0990: its registers and its word, whose position counts the bytes moved in the order of R223. -/
def savedOp (o : Op) : List W64 :=
  let word (mid : Nat) (moved : Nat) : W64 :=
    BitVec.ofNat 64 (o.opc.toNat + mid + o.tok.toNat * 2 ^ 13 + (if o.halted then 2 ^ 19 else 0) + moved * 2 ^ 24)
  match o.body with
  | .cpy _ d0 d1 ac ord => [d0, d1, word (ac.toNat * 2 ^ 7 + ord.toNat * 2 ^ 11) o.moved]
  | .atom _ va c op => [va, c, word (op.toNat * 2 ^ 7) (o.moved * (atomWidths op).1)]
  | .notify d => [d, 0, word 0 0]
  | _ => [0, 0, word 0 0]

/-- The operations that an image records: stream copies that nothing has taken, and stopped operations. -/
def savedOps (st : Stream) : List Op :=
  st.dq.filter fun o => o.stage != .finished && (o.halted || (o.body.isStreamCopy && o.moved == 0))

/-- The 1,024 bytes of a fan slot (R293): state and code; then the decoded fan, whose layout the manual leaves open (log 51): DF, NR, 32
bytes of PERM, SCALE, at 40 BASE, at 48 each row's 31 differences of 16 bits in 64 bytes. -/
def fanBytes (f : FanSlot) : List Byte :=
  match f with
  | .empty => List.replicate 1024 0
  | .bad c => [2, BitVec.ofNat 8 c] ++ List.replicate 1022 0
  | .valid f =>
    let pad (n : Nat) (l : List Byte) : List Byte := (l ++ List.replicate n 0).take n
    pad 1024 ([1, 0, f.df.setWidth 8, BitVec.ofNat 8 f.base.length] ++ pad 32 (f.perm.map fun x => BitVec.ofNat 8 x) ++
      leBytes 4 f.scale.toNat ++ pad 8 f.base ++
      (f.diff.flatMap fun r => pad 64 (r.flatMap fun x => leBytes 2 (BitVec.ofInt 16 x).toNat)))

/-- The fan slot of 1,024 bytes. A state above 2 counts as BAD, and a BAD slot keeps whatever code was written (log 51). -/
def fanOf (bs : List Byte) : FanSlot :=
  let at_ (off n : Nat) : Nat := leNat ((bs.drop off).take n)
  let nr := min 8 (at_ 3 1)
  match at_ 0 1 with
  | 0 => .empty
  | 1 => .valid {
      perm := (List.range 32).map fun i => at_ (4 + i) 1
      scale := BitVec.ofNat 24 (at_ 36 4), df := BitVec.ofNat 4 (at_ 2 1), base := (bs.drop 40).take nr
      diff := (List.range nr).map fun r => (List.range 31).map fun k => (BitVec.ofNat 16 (at_ (48 + 64 * r + 2 * k) 2)).toInt }
  | _ => .bad (at_ 1 1)

/-- Word `n` of the area of a tile (R293): the V words, the side flags, then the anchor and TSTAT (in this order, log 51). -/
def tileWordAt (t : Tile) (n : Nat) : W64 :=
  if n < 32768 then elem (t.z.get (n / 2) {}).v (n % 2) 64
  else if n < 34816 then BitVec.ofNat 64 (leNat ((List.range 8).map fun i => (t.z.get (8 * (n - 32768) + i) {}).fl))
  else if n = 34816 then t.anchor.setWidth 64
  else if n = 34817 then t.tstat
  else 0

/-- The tile after a write of word `n` of its area. Reserved bits of the side flags and of TSTAT ignore the write (R5, R44, R140). -/
def putTileWord (t : Tile) (n : Nat) (v : W64) : Tile :=
  if n < 32768 then
    let a := t.z.get (n / 2) {}
    { t with z := t.z.set (n / 2) { a with v := setElem a.v (n % 2) 64 v } {} }
  else if n < 34816 then
    { t with z := (List.range 8).foldl (fun z i =>
        let k := 8 * (n - 32768) + i
        z.set k { z.get k {} with fl := elem v i 8 &&& 0x7F } {}) t.z }
  else if n = 34816 then { t with anchor := fld v 0 10 }
  else if n = 34817 then { t with tstat := v &&& 0x3FF007F, late := [] }
  else t

/-! ### Reading an image -/

/-- The words at 0x0800 (R293). -/
def sregWords (i : SavedImg) : List W64 :=
  let st := i.st
  let r := st.regs
  let l := st.launch.getD {}
  [r.fmtr, (r.fmtPend.map (·.1)).getD 0, BitVec.ofNat 64 ((r.fmtPend.map (·.2)).getD 0), r.slack, r.dom, r.rcm.setWidth 64,
   st.sys.safemax, BitVec.ofNat 64 st.sys.safeCount, st.sys.tcause, st.sys.faultpc, st.sys.ckptpc, i.tdeleg,
   i.contain, if l.det then 1 else 0, BitVec.ofNat 64 l.gpos, BitVec.ofNat 64 l.gsize, l.skew.setWidth 64]

/-- The n-th word of a region of the image that starts at `base`, when `off` lies in its `len` bytes. -/
def region (off base len : Nat) (f : Nat → W64) : Option W64 :=
  if base ≤ off ∧ off < base + len then some (f ((off - base) / 8)) else none

/-- The 8 bytes of an image at an offset (R293). Offsets that it leaves Reserved read zero. -/
def imageWord (i : SavedImg) (off : Nat) : W64 :=
  let st := i.st
  let g := st.regs
  let l := st.launch.getD {}
  let nat (n : Nat) : W64 := BitVec.ofNat 64 n
  let list (xs : List W64) : Nat → W64 := fun n => xs.getD n 0
  let clusters := clustersOf l.vcl
  let ops := savedOps st
  let head : W64 := nat (i.ctx % 2 ^ 16 * 2 ^ 48 + i.r.core * 2 ^ 40 + (if i.r.strm = .miz then 2 ^ 39 else 0) +
    l.gpos % 8 * 2 ^ 36 + (if g.handler.isSome then 2 else 0) + if i.spad.isSome then 1 else 0)
  let ph := g.phase
  let tiles := 0x9800 + 65536 * clusters.length
  let tile : Nat := 2 ^ 18 + 2 ^ 14 + 64
  let when_ (b : Bool) (n : Nat) : Nat := if b then n else 0
  ([region off 0x0000 8 fun _ => head,
    region off 0x0008 144 (TrapFrame.word ⟨g.pc, g.loops, g.holds⟩),
    region off 0x0100 128 fun n => g.get .k n, region off 0x0180 512 fun n => g.get .a n,
    region off 0x0380 128 fun n => g.get .x n, region off 0x0400 256 fun n => g.get .d n,
    region off 0x0500 128 fun n => g.get .m n, region off 0x0580 128 fun n => g.get .p n,
    region off 0x0600 256 fun n => g.get .c n, region off 0x0700 8 fun _ => g.g.setWidth 64,
    region off 0x0708 128 fun n => ofElems 64 16 ((List.range 4).map fun j => tokenWord st (4 * n + j)),
    region off 0x0800 136 (list (sregWords i)),
    region off 0x0888 48 fun n => nat (cbarCount st n), region off 0x08B8 48 fun n => nat (phaseCount st n),
    region off 0x08E8 8 fun _ => nat ((if ph.kind then 1 else 0) + if ph.active then 2 else 0),
    region off 0x08F0 144 (g.handler.getD {}).word, region off 0x0980 16 (list [g.packRes, g.sumRes]),
    region off 0x0990 8 fun _ => nat ops.length, region off 0x0998 768 (list (ops.flatMap savedOp)),
    region off 0x1000 256 fun n => elem (g.vg.get (n / 4) 0) (n % 4) 64,
    region off 0x1100 512 (list st.sys.blogm), region off 0x1300 512 (list st.sys.blogp),
    region off 0x1500 160 fun n => g.xparam.get (8 * (n / 5) + n % 5) 0,
    region off 0x1800 8192 fun n => nat (leNat (((fanBytes (g.fans.get (n / 128) .empty)).drop (8 * (n % 128))).take 8)),
    region off 0x3800 16384 fun n =>
      let t := g.tags.get (n / 2) {}
      if n % 2 = 0 then t.tag else if t.valid then 1 else 0,
    region off 0x7800 8192 fun n => elem (st.q.get (n / 64) 0) (n % 64) 64,
    region off 0x9800 (65536 * clusters.length) fun n =>
      elem (((i.v.find? fun p => p.1 == 64 * clusters.getD (n / 8192) 0 + n / 128 % 64).map (·.2)).getD 0) (n % 128) 64,
    region off tiles (when_ i.spad.isSome (tile * l.zt)) fun n =>
      let z := tileBase i.r.strm l.zt + n / (tile / 8)
      tileWordAt (((i.tiles.find? fun p => p.1 == z).map (·.2)).getD {}) (n % (tile / 8)),
    region off (tiles + tile * l.zt) (when_ i.spad.isSome 0x1800000) fun n =>
      nat (readLE (i.spad.getD []) (8 * n) 8)].findSome? id).getD 0

/-- The image of a stream in its core as it stands (R288, R303); its scratchpad and its tiles stay in place, so SPAD reads 0 (R293). -/
def State.liveImage (s : State) (r : SRef) : SavedImg :=
  let st := s.stream r
  let e := s.ctx st.owner
  { r, ctx := st.owner, st, v := (s.core r.core).v.filter fun p => flag st.vcl (p.1 / 64), tdeleg := e.tdeleg, contain := e.contain }

/-! ### Writing an image -/

/-- The frame of a stream. -/
def Stream.frame (st : Stream) : TrapFrame := ⟨st.regs.pc, st.regs.loops, st.regs.holds⟩

/-- Replace the frame of a stream. -/
def Stream.setFrame (st : Stream) (f : TrapFrame) : Stream :=
  { st with regs := { st.regs with pc := f.pc, loops := f.loops, holds := f.holds } }

/-- A list with entry `n` replaced, padded with zeros. -/
def putAt (l : List W64) (n : Nat) (v : W64) : List W64 := (l ++ List.replicate (n + 1 - l.length) 0).set n v

/-- A stream after a write of word `n` at 0x0800. TDELEG and CONTAIN are the registry's (R273), GPOS and GSIZE name a gang that exists: a
write changes none of them (log 51). Reserved bits ignore the write (R5, R131, R171, R197, R285), and so do the bits of RCM of clusters that are not
allotted (log 52). -/
def Stream.putSreg (st : Stream) (n : Nat) (v : W64) : Stream :=
  let low (k : Nat) : W64 := BitVec.ofNat 64 (v.toNat % 2 ^ k)
  let regs (f : Regs → Regs) : Stream := { st with regs := f st.regs }
  let sys (f : StreamSys → StreamSys) : Stream := { st with sys := f st.sys }
  let launch (f : LaunchInfo → LaunchInfo) : Stream := { st with launch := st.launch.map f }
  let pend (x : W64) (k : Nat) : Option (W64 × Nat) := if x = 0 ∧ k = 0 then none else some (x, k)
  match n with
  | 0 => regs fun r => { r with fmtr := low 16 }
  | 1 => regs fun r => { r with fmtPend := pend (low 16) ((r.fmtPend.map (·.2)).getD 0) }
  | 2 => regs fun r => { r with fmtPend := pend ((r.fmtPend.map (·.1)).getD 0) (v.toNat % 8) }
  | 3 => regs fun r => { r with slack := low 16 }
  | 4 => regs fun r => { r with dom := low 3 }
  | 5 => regs fun r => { r with rcm := fld v 0 10 &&& st.vcl }
  | 6 => sys fun y => { y with safemax := low 32 }
  | 7 => sys fun y => { y with safeCount := v.toNat }
  | 8 => sys fun y => { y with tcause := v &&& ~~~(0xFFFFFC00 : W64) }
  | 9 => sys fun y => { y with faultpc := v }
  | 10 => sys fun y => { y with ckptpc := v }
  | 13 => launch fun l => { l with det := flag v 0 }
  | 16 => launch fun l => { l with skew := fld v 0 4 }
  | _ => st

/-- A stream after a write of the 8 bytes of its image at an offset, apart from its v clusters (R293). CTX, core, stream and GPOS, the saved
operations and the Reserved areas are not changed (log 51). -/
def Stream.putWord (st : Stream) (off : Nat) (v : W64) : Stream :=
  let inside (base len : Nat) : Bool := decide (base ≤ off) && decide (off < base + len)
  let ix (base : Nat) : Nat := (off - base) / 8
  let regs (f : Regs → Regs) : Stream := { st with regs := f st.regs }
  let sys (f : StreamSys → StreamSys) : Stream := { st with sys := f st.sys }
  let file (f : RFile) (base : Nat) : Stream := regs fun r => r.put f (ix base) v
  if off < 8 then regs fun r => { r with handler := if flag v 1 then some (r.handler.getD {}) else none }
  else if inside 0x0008 144 then st.setFrame (st.frame.put (ix 0x0008) v)
  else if inside 0x0100 128 then file .k 0x0100
  else if inside 0x0180 512 then file .a 0x0180
  else if inside 0x0380 128 then file .x 0x0380
  else if inside 0x0400 256 then file .d 0x0400
  else if inside 0x0500 128 then file .m 0x0500
  else if inside 0x0580 128 then file .p 0x0580
  else if inside 0x0600 256 then file .c 0x0600
  else if inside 0x0700 8 then regs fun r => { r with g := fld v 0 16 ||| 1 }
  else if inside 0x0708 128 then (List.range 4).foldl (fun st j => putToken st (4 * ix 0x0708 + j) (elem v j 16)) st
  else if inside 0x0800 136 then st.putSreg (ix 0x0800) v
  else if inside 0x0888 48 then sys fun y => { y with cbars := y.cbars.set (ix 0x0888) v.toNat 0 }
  else if inside 0x08B8 48 then
    let l := st.regs.phase.kinds.get (ix 0x08B8) []
    regs fun r => { r with phase := { r.phase with
      kinds := r.phase.kinds.set (ix 0x08B8) (l.take v.toNat ++ List.replicate (v.toNat - l.length) r.phase.kind) [] } }
  else if inside 0x08E8 8 then regs fun r => { r with phase := { r.phase with kind := flag v 0, active := flag v 1 } }
  else if inside 0x08F0 144 then regs fun r => { r with handler := r.handler.map fun f => f.put (ix 0x08F0) v }
  else if inside 0x0980 8 then regs fun r => { r with packRes := v }
  else if inside 0x0988 8 then regs fun r => { r with sumRes := v }
  else if inside 0x1000 256 then
    let n := ix 0x1000
    regs fun r => { r with vg := r.vg.set (n / 4) (setElem (r.vg.get (n / 4) 0) (n % 4) 64 v) 0 }
  else if inside 0x1100 512 then sys fun y => { y with blogm := putAt y.blogm (ix 0x1100) v }
  else if inside 0x1300 512 then sys fun y => { y with blogp := putAt y.blogp (ix 0x1300) v }
  else if inside 0x1500 160 then regs fun r => { r with xparam := r.xparam.set (8 * (ix 0x1500 / 5) + ix 0x1500 % 5) v 0 }
  else if inside 0x1800 8192 then
    let n := ix 0x1800
    let bs := fanBytes (st.regs.fans.get (n / 128) .empty)
    let f := fanOf (bs.take (8 * (n % 128)) ++ leBytes 8 v.toNat ++ bs.drop (8 * (n % 128) + 8))
    regs fun r => { r with fans := r.fans.set (n / 128) f .empty }
  else if inside 0x3800 16384 then
    let n := ix 0x3800
    let e := st.regs.tags.get (n / 2) {}
    regs fun r => { r with tags := r.tags.set (n / 2) (if n % 2 = 0 then { e with tag := v } else { e with valid := flag v 0 }) {} }
  else if inside 0x7800 8192 then
    let n := ix 0x7800
    { st with q := st.q.set (n / 64) (setElem (st.q.get (n / 64) 0) (n % 64) 64 v) 0 }
  else st

/-- A stream's core after a write of the 8 bytes of the stream's image at an offset. -/
def putImageWord (w : Strm) (off : Nat) (v : W64) (c : Core) : Core :=
  let st := streamOf c w
  let clusters := clustersOf st.vcl
  if 0x9800 ≤ off then
    if off < 0x9800 + 65536 * clusters.length then
      let n := (off - 0x9800) / 8
      let k := 64 * clusters.getD (n / 8192) 0 + n / 128 % 64
      { c with v := c.v.set k (setElem (c.v.get k 0) (n % 128) 64 v) 0 }
    else c
  else putStream c w (st.putWord off v)

end Sys2Proof.Machine
end

