-- ==== Sys2Proof/Machine/Router.lean ====
section
/-! DEFINITION. Router reduction trees (R204 to R210, R217, R340). -/
namespace Sys2Proof.Machine

/-! ### Descriptors -/

/-- A parsed tree descriptor: TID, DLN, and core, parent and children of each node (R204, R205). -/
structure TreeDesc where
  tid : Nat
  dln : Nat
  nodes : List (Nat × Nat × List Nat)
  deriving DecidableEq, Repr, Inhabited

/-- A node record (R205): the node, and whether NCH and its Reserved fields allow it. -/
def parseTreeNode (bs : List Byte) : (Nat × Nat × List Nat) × Bool :=
  let f (o n : Nat) : Nat := leNat ((bs.drop o).take n)
  let nch := f 4 1
  ((f 0 2, f 2 2, (List.range nch).map fun j => f (8 + 2 * j) 2), decide (nch ≤ 8) && f 5 3 == 0 && f 24 8 == 0)

/-- The record of a core. -/
def treeRec (l : List (Nat × Nat × List Nat)) (core : Nat) : Option (Nat × Nat × List Nat) := l.find? fun n => n.1 == core

/-- The parent of a core, 0xFFFF when it is the root or has no record. -/
def treeParent (l : List (Nat × Nat × List Nat)) (core : Nat) : Nat := ((treeRec l core).map fun n => n.2.1).getD 0xFFFF

/-- The children of a core. -/
def treeKids (l : List (Nat × Nat × List Nat)) (core : Nat) : List Nat := ((treeRec l core).map fun n => n.2.2).getD []

/-- Whether a core reaches the root through parents. -/
def reachesRoot (l : List (Nat × Nat × List Nat)) : Nat → Nat → Bool
  | 0, _ => false
  | fuel + 1, core => treeParent l core == 0xFFFF || reachesRoot l fuel (treeParent l core)

/-- The cores of the subtree of a core. -/
def subtree (l : List (Nat × Nat × List Nat)) : Nat → Nat → List Nat
  | 0, core => [core]
  | fuel + 1, core => core :: (treeKids l core).flatMap (subtree l fuel)

/-- The tree conditions of R205 for a caller. -/
def treeOk (l : List (Nat × Nat × List Nat)) (cores : List Nat) (me : Nat) : Bool :=
  let ids := l.map (·.1)
  (l.filter fun n => n.2.1 == 0xFFFF).length == 1 && ids.eraseDups.length == ids.length && ids.contains me &&
    (ids.all cores.contains) &&
    (l.all fun n => n.2.1 == 0xFFFF || (ids.contains n.2.1 && (treeKids l n.2.1).contains n.1)) &&
    (l.all fun n => n.2.2.all fun k => ids.contains k && treeParent l k == n.1) &&
    (ids.all fun c => reachesRoot l (l.length + 1) c)

/-- What the node finds of a CRED (R205, R206, R207, R340): a descriptor address that is bad; a set violation (R178); an
invalid descriptor or address, with the TID; or the descriptor. -/
inductive CredCheck where
  | nowhere
  | outside
  | invalid (tid : Nat)
  | ok (d : TreeDesc)
  deriving DecidableEq, Repr, Inhabited

/-- The checks of a CRED. -/
def credCheck (c : Core) (st : Stream) (cores : List Nat) (me : Nat) (d0 d1 : W64) (fxw : Bool) : CredCheck :=
  let a := (fld d0 0 25).toNat
  if a % 32 ≠ 0 ∨ !inSpad a 32 then .nowhere
  else if !dInSets st a 8 false then .outside
  else
    let th := readLE c.spad a 8
    let tid := th / 2 ^ 48
    let n := th / 2 ^ 40 % 256
    let dln := th % 2 ^ 20
    let num := (fld d1 50 8).toNat + 1
    let sa := (fld d1 0 25).toNat
    let ra := (fld d1 25 25).toNat
    if n = 0 ∨ 64 < n ∨ th / 2 ^ 20 % 2 ^ 20 ≠ 0 ∨ 1000000 < dln ∨ !inSpad a (32 + 32 * n) then .invalid tid
    else if !dInSets st (a + 32) (32 * n) false then .outside
    else
      let l := (List.range n).map fun i => parseTreeNode (readBytes c.spad (a + 32 + 32 * i) 32)
      let nodes := l.map (·.1)
      if !(l.all (·.2)) || !treeOk nodes cores me then .invalid tid
      else if sa % 4 ≠ 0 ∨ !inSpad sa (4 * num) then .invalid tid
      else if treeParent nodes me = 0xFFFF ∧ (ra % 32 ≠ 0 ∨ !inSpad ra (32 + (if fxw then 32 else 4) * num)) then .invalid tid
      else if !dInSets st sa (4 * num) false then .outside
      else .ok ⟨tid, dln, nodes⟩

/-! ### Combining -/

/-- One step of Combine (R207): the accumulated element and the next operand's, which is a local element or not. -/
def combineElem (fxw own : Bool) (acc x : W128 × W64) : W128 × W64 :=
  if fxw then
    if own then
      let c := (Fxc.mk acc.1 acc.2).add (Num.decode .fp32 (x.1.toNat % 2 ^ 32))
      (c.v, c.fw)
    else (acc.1 + x.1, acc.2 ||| (x.2 &&& 0x1F))
  else ((toF32 (Num.add (f32 (fld acc.1 0 32)) (f32 (fld x.1 0 32)))).setWidth 128, 0)

/-- Combine of R207: the children's packets in ascending CHILD index, then the own contribution. -/
def combine (fxw : Bool) (kids : List (List (W128 × W64))) (own : Option (List (W128 × W64))) : List (W128 × W64) :=
  let step (o : Bool) (acc x : List (W128 × W64)) : List (W128 × W64) := List.zipWith (combineElem fxw o) acc x
  let n := match kids with
    | k :: _ => k.length
    | [] => (own.map List.length).getD 0
  if fxw then
    let acc := kids.foldl (step false) (List.replicate n (0, 0))
    match own with
    | some o => step true acc o
    | none => acc
  else match kids ++ own.toList with
    | [] => []
    | x :: t => t.foldl (step false) x

/-- The result block of R209. -/
def treeBlock (miss k : Nat) (fxw : Bool) (vals : List (W128 × W64)) : List Byte :=
  leBytes 8 miss ++ leBytes 8 k ++ leBytes 16 0 ++
    vals.flatMap fun v => if fxw then leBytes 16 v.1.toNat ++ leBytes 8 v.2.toNat ++ leBytes 8 0 else leBytes 4 v.1.toNat

/-! ### Nodes -/

/-- The node of a tree at a core. -/
def State.treeNode (s : State) (core tree : Nat) : TreeNode := s.fabric.nodes.get (treeKey core tree) {}

/-- Replace a node. -/
def State.setTreeNode (s : State) (core tree : Nat) (n : TreeNode) : State :=
  { s with fabric := { s.fabric with nodes := s.fabric.nodes.set (treeKey core tree) n {} } }

/-- A CRED completes with a status, in its core or in a saved image (R209, R292). -/
def State.credEnd (s : State) (c : CredRef) (status : Nat) : State :=
  match s.member c.launch c.r with
  | some m => s.updPlace m.at_ fun st =>
      match st.dq.find? fun o => o.id == c.id with
      | some o => { setGen st o.out status 0 with dq := st.dq.filter fun x => x.id != c.id }
      | none => st
  | none => s

/-- The result block of a root CRED has been written (R209): it completes, or its token waits for the accesses that earlier CREDs of the
streams of its contributions have yet to make (R210). -/
def State.credDone (s : State) (c : CredRef) (status : Nat) (after : List CredRef) : State :=
  if after.any s.credOpen then
    match s.member c.launch c.r with
    | some m => s.updPlace m.at_ fun st => { st with dq := st.dq.map fun o => if o.id = c.id then { o with sent := true, status, after } else o }
    | none => s
  else s.credEnd c status

/-- The senders of packets learn a status. -/
def State.endSenders (s : State) (status : Nat) (l : List TreePkt) : State :=
  l.foldl (fun s p => match p.who with | some c => s.credEnd c status | none => s) s

/-- Mode and number of elements of two operands agree (R208). -/
def samePkt (a b : TreePkt) : Bool := a.fxw == b.fxw && a.vals.length == b.vals.length

/-- The packets of an instance that node `me` accepts: those of listed children that agree with the reference. The others
are discarded with what they hold, and their senders complete with status 10 (R204, R208). -/
def State.screen (s : State) (me : Nat) (desc : List (Nat × Nat × List Nat)) (ref : TreePkt) (i : TreeInst) :
    State × TreeInst :=
  let ok (p : TreePkt) : Bool := (treeKids desc me).contains p.src && samePkt p ref
  (s.endSenders 10 (i.pkts.filter fun p => !ok p), { i with pkts := i.pkts.filter ok, detFrom := i.detFrom.filter (treeKids desc me).contains })

/-- Whether an operand that comes from a DET = 1 launch has reached a node: its own CRED, or a child's packet, be it held or discarded (R208). -/
def TreeInst.det (i : TreeInst) : Bool := i.own.any TreePkt.det || !i.detFrom.isEmpty

/-- The descriptor and DLN by which a node acts on an instance: its own, or before its CRED has come those of the packet that arrived first (log 31). -/
def TreeInst.desc (i : TreeInst) : List (Nat × Nat × List Nat) × Nat :=
  match i.own, i.pkts with
  | some o, _ => (o.desc, o.dln)
  | none, p :: _ => (p.desc, p.dln)
  | none, [] => ([], 0)

/-- The result block is written (R166, R209), in the core's scratchpad or in the saved one (R292); the root's CRED completes.
`none` when a full scratchpad log keeps the write back (R300). -/
def State.rootWrite (s : State) (c : CredRef) (raddr miss k : Nat) (fxw : Bool) (vals : List (W128 × W64)) (after : List CredRef) :
    Option State :=
  match s.member c.launch c.r with
  | none => some s
  | some m =>
    let bs := treeBlock miss k fxw vals
    if !dInSets m.st raddr bs.length true then some (s.credEnd c 23)
    else
      let status := if miss = 0 then 0 else 8
      let inCore (s : State) : Option State :=
        let ctx := m.st.owner
        if s.logged ctx && !spadRoom ctx (s.core m.r.core) raddr bs.length then none
        else some ((s.updCore m.r.core fun k => coreSpadWrite (logSpad (s.logged ctx) ctx k raddr bs.length) raddr bs).credDone c
          status after)
      match m.at_ with
      | .live _ => inCore s
      | .saved n => match (s.saved[n]?).bind SavedImg.spad with
        | some spad =>
          let u := logLines m.st.owner (s.core m.r.core).undo spad raddr bs.length
          if s.logged m.st.owner && decide (4096 < u.length) then none else
          let s := if s.logged m.st.owner then s.updCore m.r.core fun k => { k with undo := u } else s
          let s := { s with saved := s.saved.modify n fun i => { i with spad := i.spad.map fun x => writeBytes x raddr bs } }
          some (s.credDone c status after)
        | none => inCore s

/-- An instance leaves a node. When the oldest one held does, the node may take another beside the one that is left (R207). -/
def State.releaseInst (s : State) (me tree k : Nat) : State :=
  let n := s.treeNode me tree
  let oldest := (n.insts.head?.map TreeInst.k) == some k
  s.setTreeNode me tree { n with
    insts := n.insts.filter fun i => i.k != k, gone := n.gone ++ [k], full := if oldest then false else n.full }

/-- A node combines and forwards an instance, or the root completes it (R207 to R209). The packet of a child that a record lists twice enters
once for each listing (log 31). -/
def State.forward (s : State) (me tree : Nat) (i : TreeInst) : State :=
  let (desc, _) := i.desc
  let kids := treeKids desc me
  let held := kids.filterMap fun c => i.pkts.find? fun p => p.src == c
  let (s, i) := match i.own, held with
    | none, p :: _ => s.screen me desc p i
    | _, _ => (s, i)
  let held := kids.filterMap fun c => i.pkts.find? fun p => p.src == c
  let present := (held.flatMap TreePkt.present ++ (i.own.map TreePkt.present).getD []).eraseDups
  let ref := (i.own <|> held.head?).getD default
  let vals := combine ref.fxw (held.map TreePkt.vals) (i.own.map TreePkt.vals)
  let ctxs := (held.flatMap TreePkt.ctxs ++ (i.own.map TreePkt.ctxs).getD []).eraseDups
  let after := held.flatMap TreePkt.after ++ (i.own.map TreePkt.after).getD []
  if treeParent desc me = 0xFFFF then
    let mask := ((desc.map (·.1)).zipIdx.map fun p => if present.contains p.1 then 0 else 2 ^ p.2).sum
    match i.own.bind fun o => o.who.map fun c => (c, o.raddr) with
    | some (c, ra) => match s.rootWrite c ra mask i.k ref.fxw vals after with
      | some s => (((s.endSenders 0 held).releaseInst me tree i.k)).markDue ctxs false
      | none =>
        ((s.member c.launch c.r).map fun m => s.coreLogFull m.st.owner m.r.core).getD s
    | none => ((s.endSenders 0 held).releaseInst me tree i.k).markDue ctxs false
  else
    let s := (s.endSenders 0 held).releaseInst me tree i.k
    if held.isEmpty && i.own.isNone then s
    else
      let p : TreePkt := { ref with
        src := me, vals, present, det := (held ++ i.own.toList).any TreePkt.det, who := i.own.bind TreePkt.who, ctxs, after, desc, dln := i.desc.2, raddr := 0 }
      { s with fabric := { s.fabric with flight := s.fabric.flight ++ [(treeParent desc me, tree, i.k, p)] } }

/-- An instance is ready: every child has forwarded and the own CRED has arrived (R208). -/
def TreeInst.ready (me : Nat) (i : TreeInst) : Bool :=
  match i.own with
  | some o => (treeKids o.desc me).all i.heard.contains
  | none => false

/-- At the root an instance completes only after those before it (R207). -/
def TreeNode.inOrder (n : TreeNode) (me : Nat) (i : TreeInst) : Bool :=
  treeParent i.desc.1 me != 0xFFFF || (List.range i.k).all n.gone.contains

/-- The node forwards every instance that is ready, the earliest first. -/
def State.advanceNode (me tree : Nat) : Nat → State → State
  | 0, s => s
  | fuel + 1, s =>
    let n := s.treeNode me tree
    match n.insts.find? fun i => i.ready me && n.inOrder me i with
    | some i => State.advanceNode me tree fuel (s.forward me tree i)
    | none => s

/-- Put an instance back into its node. A new one beside another fills the node (R207). -/
def State.putInst (s : State) (me tree : Nat) (i : TreeInst) : State :=
  let n := s.treeNode me tree
  if n.insts.any fun j => j.k == i.k then
    s.setTreeNode me tree { n with insts := n.insts.map fun j => if j.k = i.k then i else j }
  else s.setTreeNode me tree { n with insts := n.insts ++ [i], full := !n.insts.isEmpty }

/-- The instance that an operand reaches: held, new, or none for a third instance, which waits until the oldest of the two has been released
(R207). -/
def State.instFor (s : State) (me tree k : Nat) : Option TreeInst :=
  let n := s.treeNode me tree
  match n.insts.find? fun i => i.k == k with
  | some i => some i
  | none => if n.full then none else some { k, since := s.time }

/-! ### Arrivals -/

/-- A child's packet reaches node `me` (R204, R208). -/
def State.packetIn (s : State) (me tree : Nat) (p : TreePkt) (i : TreeInst) : State :=
  let i := { i with
    pkts := i.pkts ++ [p], heard := i.heard ++ [p.src], detFrom := if p.det then i.detFrom ++ [p.src] else i.detFrom }
  let s := match i.own with
    | some o =>
      let (s, i) := s.screen me o.desc o i
      s.putInst me tree i
    | none => s.putInst me tree i
  State.advanceNode me tree 3 s

/-- The first packet from `src` that is on its way to a node, with its instance. -/
def State.inFlight (s : State) (me tree src : Nat) : Option (Nat × Nat × TreePkt) :=
  (s.fabric.flight.zipIdx.find? fun p => p.1.1 == me && p.1.2.1 == tree && p.1.2.2.2.src == src).map fun p =>
    (p.2, p.1.2.2.1, p.1.2.2.2)

/-- The first CRED of a list of a stream of partition `part` that is one for a tree, as the checks of each say; one that may not act yet lets no later one pass, since its
tree is not known (R207, log 31). -/
def firstCred (ready : Op → Bool) (check : Op → Option CredCheck) (part tree : Nat) : List Op → Option (Op × CredCheck)
  | [] => none
  | o :: t =>
    match check o with
    | none => firstCred ready check part tree t
    | some k =>
      let mine : Bool := match k with
        | .nowhere | .outside => true
        | .invalid n => treeNo part n == tree
        | .ok d => treeNo part d.tid == tree
      if !ready o then none else if mine then some (o, k) else firstCred ready check part tree t

/-- The CRED of a core that reaches its router next for a tree, in the issue order of its stream (R207): the stream and operation, and its
checks. -/
def State.nextCred (s : State) (core tree : Nat) : Option (SRef × Op × CredCheck) :=
  let one (w : Strm) : Option (SRef × Op × CredCheck) :=
    let r : SRef := ⟨core, w⟩
    let st := s.stream r
    let cores := (s.partOf st.owner).cores
    let check (o : Op) : Option CredCheck := match o.body with
      | .cred d0 d1 fxw => if o.inst.isNone then some (credCheck (s.core core) st cores core d0 d1 fxw) else none
      | _ => none
    (firstCred (fun o => s.dReady r o && !tokensBad st o) check (s.ctx st.owner).partition tree st.dq).map fun p => (r, p.1, p.2)
  one .main <|> one .miz

/-- The CREDs of the stream that were issued before `o` and have not completed (R210). -/
def State.credsBefore (s : State) (launch : Nat) (r : SRef) (o : Op) : List CredRef :=
  (earlier o.id (s.stream r).dq).filterMap fun e => match e.body with
    | .cred .. => some ⟨launch, r, e.id⟩
    | _ => none

/-- A CRED for a third instance waits, and the node goes on with those that it holds (R207). A CRED reaches its router (R205 to R209, R340). -/
def State.credIn (s : State) (tree : Nat) (r : SRef) (o : Op) (k : CredCheck) : State :=
  let me := r.core
  let n := s.treeNode me tree
  match k with
  | .nowhere => s.dRetire r o 11
  | .outside => s.dRetire r o 23
  | .invalid _ =>
    let s := match n.insts.find? fun i => i.k == n.count with
      | some i => s.endSenders 9 i.pkts
      | none => s
    let s := (s.setTreeNode me tree { n with count := n.count + 1 }).releaseInst me tree n.count
    State.advanceNode me tree 3 (s.dRetire r o 11)
  | .ok d =>
    if n.gone.contains n.count then (s.setTreeNode me tree { n with count := n.count + 1 }).dRetire r o 9
    else match s.instFor me tree n.count with
      | none => State.advanceNode me tree 3 s
      | some i =>
        match o.body, (s.stream r).launch with
        | .cred _ d1 fxw, some l =>
          let a := (fld d1 0 25).toNat
          let num := (fld d1 50 8).toNat + 1
          let p : TreePkt := {
            src := me, fxw, present := [me]
            vals := (List.range num).map fun e => (BitVec.ofNat 128 (readLE (s.core me).spad (a + 4 * e) 4), 0)
            det := l.det, who := some ⟨l.id, r, o.id⟩, ctxs := [l.ctx], after := s.credsBefore l.id r o, desc := d.nodes, dln := d.dln
            raddr := (fld d1 25 25).toNat }
          let s := s.setTreeNode me tree { n with count := n.count + 1 }
          let s := s.setDOp r { o with inst := some n.count }
          let (s, i) := s.screen me d.nodes p { i with own := some p }
          State.advanceNode me tree 3 (s.putInst me tree i)
        | _, _ => s

/-! ### The meanings -/

/-- ROUTER_PACKET_ARRIVAL (R204, R207 to R209): at node `core` of a tree, named by its partition and TID, the packet from `src` arrives, or the node's own
CRED when `src` is the node. An operand for a third instance waits. With nothing to arrive, the node takes up the instances that wait for room to
write their result block (R300). -/
def execRouterPacketArrival (core tree src : Nat) (s : State) : Host.Outcome State Fault Refusal :=
  if core < numCores then
    if src = core then
      match s.nextCred core tree with
      | some (r, o, k) => .next (s.credIn tree r o k)
      | none => .next (State.advanceNode core tree 3 s)
    else
      match s.inFlight core tree src with
      | none => .next s
      | some (ix, k, p) =>
        let taken (s : State) : State := { s with fabric := { s.fabric with flight := s.fabric.flight.eraseIdx ix } }
        if (s.treeNode core tree).gone.contains k then .next ((taken s).endSenders 9 [p])
        else match s.instFor core tree k with
          | none => .next s
          | some i => .next ((taken s).packetIn core tree p i)
  else .fault .noSuchCore

/-- An instance's deadline has passed (R208). -/
def State.overdue (s : State) (i : TreeInst) : Bool :=
  i.desc.2 != 0 && !i.det && decide (i.since + i.desc.2 ≤ s.time)

/-- TREE_DEADLINE (R208, R209): the node forwards the earliest instance whose deadline has passed. -/
def execTreeDeadline (core tree : Nat) (s : State) : Host.Outcome State Fault Refusal :=
  if core < numCores then
    let n := s.treeNode core tree
    match n.insts.find? fun i => s.overdue i && n.inOrder core i with
    | some i => .next (State.advanceNode core tree 3 (s.forward core tree i))
    | none => .next s
  else .fault .noSuchCore

end Sys2Proof.Machine
end

