-- ==== Sys2Proof/Machine/Context.lean ====
section
/-! DEFINITION. Checkpoints, traps, pre-emption, restore and termination of streams and gangs (R65, R81, R86 to R89, R119 to
R121, R195, R196, R285 to R294, R297, R299). -/
namespace Sys2Proof.Machine

/-! ### Checkpoints -/

/-- Whether the gang of a stream stands at one boundary: no member has a copy of a bundle to execute. -/
def State.gangAligned (s : State) (r : SRef) : Bool := (s.gang r).all fun m => (s.stream m).shroud.isEmpty

/-- What follows the checkpoint that a gang asks for: its lead's answer, or that of the first member that asks. -/
def State.gangAfter (s : State) (r : SRef) : AfterCkpt :=
  let l := (s.gang r).filterMap fun m => (s.stream m).ckpt.map CkptReq.after
  (l.find? (· != .go)).getD .go

/-- Every member's M, P and X operations before the checkpoint have retired, and no PHASE is waiting (R81 step 1). -/
def State.ckptReady (s : State) (r : SRef) : Bool :=
  (s.gang r).all fun m =>
    let st := s.stream m
    mpxDone st ((st.ckpt.map CkptReq.before).getD st.nextId) && st.phaseWait.isNone && st.traps.isEmpty

/-- A commit of a stream has room in its core's log (R300). -/
def commitRoom (prot : Bool) (c : Core) (w : Strm) : Bool :=
  !prot || decide (((commitRanges (streamOf c w)).foldl (fun c p => logSpad true (streamOf c w).owner c p.1 p.2) c).undo.length ≤ 4096)

/-- Change the core of every member of a gang. -/
def State.gangCore (s : State) (r : SRef) (f : Strm → Core → Core) : State :=
  (s.gang r).foldl (fun s m => s.updCore m.core (f m.strm)) s

/-- The gang returns to its last checkpoint and freezes there for a recovery point (R299, R300). -/
def State.freezeBack (s : State) (r : SRef) : State :=
  ((s.gangCore r fun w c => rollbackCore c w).alignNos r).updGang r fun st =>
    { st with freezeReq := false, frozen := { st.frozen with recovery := true } }

/-- The state of a stream after its commit, by what follows the checkpoint. -/
def afterCommit (a : AfterCkpt) (st : Stream) : Stream :=
  let st := { st with ckpt := none, ckptAt := some st.regs.pc }
  match a with
  | .go | .trap _ => st
  | .halt => { st with run := .halted }
  | .leaveHandler =>
    let st := leaveHandler st
    { st with dup := st.regs, ckptAt := some st.regs.pc }
  | .preempt => { st with run := .saved }
  | .freeze => { st with freezeReq := false, frozen := { st.frozen with recovery := true } }
  | .debug => { st with debugReq := false, frozen := { st.frozen with debug := true } }

/-- A stream after the commit behind its ASWAP or ACAS (R175). The trap of BRK or SVC, or the end of the handler, is part of it; what else its
bundle asks for is still to come. -/
def afterSwap (a : AfterCkpt) (st : Stream) : Stream :=
  match a with
  | .trap _ | .leaveHandler => afterCommit a st
  | _ => { st with ckpt := (st.ckpt.filter fun q => q.after != .go).map fun q => { q with swap := false }, ckptAt := some st.regs.pc }

/-- The commit of a gang with what follows it: `f` is what each stream does, and a trap is delivered. -/
def State.commitGang (s : State) (r : SRef) (a : AfterCkpt) (f : Stream → Stream) : State :=
  let s := (s.gangCore r fun w c => commitCore (s.logged (s.stream r).owner) c w).updGang r f
  match a with
  | .trap t => s.deliver r (s.stream r).regs.handler.isSome t
  | _ => s

/-- CHECKPOINT_COMMIT (R81, R85 to R89, R174, R196): the gang of `r` commits the checkpoint that a member asks for, once it
stands at the boundary and the operations before it have retired; then the stream goes on, halts, traps, leaves its
handler, is pre-empted or freezes. Behind an ASWAP or ACAS one checkpoint is committed as soon as every member has executed the bundle: what was
issued before the bundle has retired, and nothing may come between (R175). A commit that the full core log keeps back freezes the gang at its last
checkpoint (R300). Contexts that a crash of Nymen has frozen commit after the thaw, so that held D operations stay held (R298). -/
def execCheckpointCommit (r : SRef) (s : State) : Host.Outcome State Fault Refusal :=
  if r.core < numCores then
    let g := s.gang r
    let prot := s.logged (s.stream r).owner
    if g.any fun m => (s.stream m).frozen.nymen then .next s
    else if s.swapOpen r then
      if s.gangAligned r then .next (s.commitGang r (s.gangAfter r) (afterSwap (s.gangAfter r))) else .next s
    else if (g.any fun m => (s.stream m).ckpt.isSome) && s.gangAligned r && s.ckptReady r then
      let a := s.gangAfter r
      if g.all fun m => commitRoom prot (s.core m.core) m.strm then
        .next (s.commitGang r a (afterCommit a))
      else if s.gangQuiet r then
        .next ((s.gang r).foldl (fun s m => s.coreLogFull (s.stream r).owner m.core) (s.freezeBack r))
      else .next s
    else .next s
  else .fault .noSuchCore

/-! ### Clusters and priority -/

/-- CLUSTER_WAKE (R65): a gated cluster of the stream wakes. -/
def execClusterWake (r : SRef) (cl : Nat) (s : State) : Host.Outcome State Fault Refusal :=
  if r.core < numCores then
    .next (s.updSys r fun y => { y with gatedClusters := y.gatedClusters &&& ~~~BitVec.ofNat 10 (2 ^ cl) })
  else .fault .noSuchCore

/-- MIZZEN_PRIORITY_SWAP (R121): after 16 cycles in which R120 alone kept the Mizzen bundle back, the next
cycle's order is reversed, and the count restarts. -/
def execMizzenPrioritySwap (core : Nat) (s : State) : Host.Outcome State Fault Refusal :=
  if core < numCores then
    if (s.core core).swapDue then
      .next { s.updCore core (fun c => { c with mizBlocked := 0, swap := true }) with cur := ⟨core, .miz⟩ }
    else .next s
  else .fault .noSuchCore

/-! ### Traps -/

/-- TRAP_TAKEN (R86, R196, R285 to R288): once the in-flight M, P and X operations of the gang have retired, one cause of
all that are detected is taken (R287), behind the commit of R175. -/
def execTrapTaken (r : SRef) (s : State) : Host.Outcome State Fault Refusal :=
  if r.core < numCores then
    if s.gangQuiet r && !s.swapOpen r then
      match pickTrap ((s.gang r).flatMap fun m => (s.stream m).traps) with
      | some t => .next (s.takeTrap r t)
      | none => .next s
    else .next s
  else .fault .noSuchCore

/-- SAFE_POINT_OVERDUE (R289, R299): the count of a stream exceeds SAFEMAX.CYCLES. It restarts, and cause 10 is
raised at the boundary, behind a commit of R175; a stream that a recovery point waits for freezes at its last checkpoint instead, with its count as it is (log 33). -/
def execSafePointOverdue (r : SRef) (s : State) : Host.Outcome State Fault Refusal :=
  if r.core < numCores then
    let st := s.stream r
    if st.overdue && st.traps.isEmpty && s.gangAligned r && !s.swapOpen r then
      if st.freezeReq then
        if s.gangQuiet r then .next (s.freezeBack r) else .next s
      else .next ((s.updSys r fun y => { y with safeCount := 0 }).raise r 10 0 st.regs.pc)
    else .next s
  else .fault .noSuchCore

/-- One change of a stopped stream (R288, R303). A Reserved field ignores what is written to it (R5). The manual does not say what becomes of
a DOM with LEVEL 6 or 7, or of an FMTR with format codes that R132 and R150 do not accept, when it is written so: the model keeps the
value (log 52). A byte of the scratchpad that a full log keeps back is not written (R300). -/
def State.edit (s : State) (r : SRef) (e : Edit) : State :=
  let file (f : RFile) (n : Nat) (v : W64) : State := s.updRegs r fun x => x.put f n v
  match e with
  | .k n v => file .k n.toNat v
  | .a n v => file .a n.toNat v
  | .x n v => file .x n.toNat v
  | .d n v => file .d n.toNat v
  | .m n v => file .m n.toNat v
  | .p n v => file .p n.toNat v
  | .c n v => file .c n.toNat v
  | .g n b => s.updRegs r fun x => x.setGuard n b
  | .vg n v => s.updRegs r fun x => { x with vg := x.vg.set n.toNat v 0 }
  | .v n v => if n.toNat < 640 then s.updCore r.core fun c => { c with v := c.v.set n.toNat v 0 } else s
  | .q n v => s.updStream r fun st => { st with q := st.q.set n.toNat v 0 }
  | .pc v => s.updRegs r fun x => { x with pc := v }
  | .fmtr v => s.updRegs r fun x => { x with fmtr := fld v 0 16 |>.setWidth 64 }
  | .slack v => s.updRegs r fun x => { x with slack := fld v 0 16 |>.setWidth 64 }
  | .dom v => s.updRegs r fun x => { x with dom := fld v 0 3 |>.setWidth 64 }
  | .spad a b =>
    let ctx := (s.stream r).owner
    if !inSpad a 1 then s
    else if s.logged ctx && !spadRoom ctx (s.core r.core) a 1 then s.coreLogFull ctx r.core
    else s.updCore r.core fun c => coreSpadWrite (logSpad (s.logged ctx) ctx c a 1) a [b]
  | .tileV z ix v =>
    if z < (s.stream r).zt ∧ ix < 16384 then
      s.updCore r.core fun c =>
        let n := tileBase r.strm (s.stream r).zt + z
        let t := c.tiles.get n {}
        { c with tiles := c.tiles.set n { t with z := t.z.set ix { t.z.get ix {} with v } {} } {} }
    else s
  | .image off v => s.updCore r.core (putImageWord r.strm off v)
  | .tileWord z off v =>
    if z < (s.stream r).zt then
      s.updCore r.core fun c =>
        let n := tileBase r.strm (s.stream r).zt + z
        { c with tiles := c.tiles.set n (putTileWord (c.tiles.get n {}) (off / 8) v) {} }
    else s

/-- Whether a gang is stopped by a trap (R288). -/
def State.gangStopped (s : State) (r : SRef) : Bool := (s.gang r).all fun m => (s.stream m).run == .stopped

/-- TRAP_CONTINUE (R81, R87, R288): the handler's changes are made, each through the image of the member that it names, and the gang resumes with
an implicit checkpoint. A stream of a context that is being terminated stays stopped (R297). -/
def execTrapContinue (r : SRef) (edits : List (SRef × Edit)) (s : State) : Host.Outcome State Fault Refusal :=
  if r.core < numCores then
    if s.nymenUp && s.gangStopped r && !s.isEnding (s.stream r).owner then
      .next ((edits.foldl (fun t e => if (s.gang r).contains e.1 then t.edit e.1 e.2 else t) s).resume r)
    else .next s
  else .fault .noSuchCore

/-- TRAP_ESCALATE (R288): a trap that the partition agent received is passed to Nymen. -/
def execTrapEscalate (r : SRef) (s : State) : Host.Outcome State Fault Refusal :=
  if r.core < numCores then
    let st := s.stream r
    if s.nymenUp ∧ s.gangStopped r ∧ fld st.sys.tcause 8 2 = 1 ∧ !s.isEnding st.owner then
      let w := st.sys.tcause &&& ~~~(0x300 : W64)
      let s := s.updGang r fun st => { st with sys := { st.sys with tcause := w } }
      .next (s.post 5 (okey 1 st.owner) (trapArg0 st.owner (s.gangMember r (fld w 61 3).toNat) (fld w 61 3).toNat) w)
    else .next s
  else .fault .noSuchCore

/-! ### Termination -/

/-- The dispatched D operations that a terminated stream lets finish: those whose tokens are set or will be set by one of
them; barrier and tree registrations are withdrawn (R297). -/
def finishing (st : Stream) : List Op :=
  (st.dq.foldl (fun (acc : List Op × List Nat) o =>
    let gone := match o.body with | .cbar _ | .cred .. => true | b => b.isStreamCopy
    if !gone && o.ins.all (fun g => (st.gen g).set || acc.2.contains g) then (acc.1 ++ [o], o.out :: acc.2) else acc) ([], [])).1

/-- A stream of a terminated context stops (R297). -/
def endStream (hard : Bool) (st : Stream) : Stream :=
  { st with
    run := .stopped, mq := [], pq := [], xq := [], dheld := [], dq := finishing st, traps := [], ckpt := none
    preempt := false, freezeReq := false, debugReq := false, phaseWait := none, shroud := [], withheld := [], atoms := []
    launch := st.launch.map fun l => { l with ended := some hard } }

/-- The launches of a context that have not ended. -/
def State.ctxLaunches (s : State) (ctx : Nat) : List Nat :=
  ((s.members.filter fun m => m.st.owner == ctx).filterMap fun m => m.st.launch.map LaunchInfo.id).eraseDups

/-- Launches of a context that have not started are given up; a node's fails, by a hardware error or not (R267). -/
def State.dropPending (s : State) (ctx : Nat) (hard : Bool) : State :=
  (s.fe.pending.filter fun p => p.ctx == ctx).foldl (fun s p =>
    let s := { s with fe := { s.fe with pending := s.fe.pending.filter fun q => q.id != p.id } }
    match p.node, p.queue with
    | some (k, i), _ => s.runNodeEnd ctx k i p.id true hard []
    | none, some q => s.setWork q { s.work q with launches := (s.work q).launches.filter (· != p.id) }
    | none, none => s) s

/-- A context begins to end (R297): its streams stop at once. -/
def State.beginEnd (s : State) (ctx reason : Nat) (hard : Bool) : State :=
  let s := (s.ctxLaunches ctx).foldl (fun s l => s.withdraw l) s
  let s := (s.ctxStreams ctx).foldl (fun s r => s.updStream r (endStream hard)) s
  let s := { s with
    saved := s.saved.map fun (i : SavedImg) => if i.ctx = ctx then { i with st := endStream hard i.st } else i }
  let s := s.dropPending ctx hard
  let s := if hard then s.failCopies ctx else s
  { s with mast := { s.mast with ending := s.mast.ending.set ctx (some (reason, hard)) none } }

/-- Whether the dispatched D operations of a context have finished. -/
def State.ctxDone (s : State) (ctx : Nat) : Bool := (s.ctxStreams ctx).all fun r => !(s.stream r).busy

/-- The notice word (R297, R301). -/
def noticeWord (ctx reason : Nat) : W64 := BitVec.ofNat 64 (ctx % 2 ^ 16 * 2 ^ 48 + reason % 256)

/-- A notice word is written at NOTICEVA through the context's own translation, page by page; none when it is not written (R297). -/
def State.noticeWrite (s : State) (ctx : Nat) (w : W64) : Option State :=
  let va := (s.ctx ctx).noticeVa.toNat
  let bs := leBytes 8 w.toNat
  let xs := (pieces va 8).map fun p => ((bs.drop (p.1 - va)).take p.2, (s.translate ctx none p.1 false true).2)
  let ok := xs.all fun p => match p.2 with
    | .ok x => leafEgr x.leaf == 0 || s.peerOk (x.pa / 2 ^ 40 % 256) (leafEgr x.leaf)
    | .error _ => false
  if !ok || !s.boundsOk ctx va 8 false true then none
  else
    some (xs.foldl (fun s p => match p.2 with
      | .ok x =>
        if leafEgr x.leaf = 0 then s.memWrite (leafKey x.leaf) x.pa p.1
        else s.send (.write (s.pageDest x.pa x.leaf) (x.pa % 2 ^ 40) p.1)
      | .error _ => s) s)

/-- The notice word is written and event 10 is posted (R277, R297). -/
def State.notice (s : State) (ctx reason : Nat) : State :=
  let w := noticeWord ctx reason
  match s.noticeWrite ctx w with
  | some s => s.post 10 (okey 1 ctx) (BitVec.ofNat 64 ctx) w
  | none => s.post 10 (okey 1 ctx) (BitVec.ofNat 64 ctx) (w ||| 0x100)

/-- A terminated context ends: its launches end and count as failed, STATE is 4, and its held egress never leaves (R260,
R297). -/
def State.finishEnd (s : State) (ctx reason : Nat) (hard : Bool) : State :=
  let s := (s.ctxLaunches ctx).foldl (fun s l => s.endLaunch l true hard) s
  let s := { (s.setRec ctx { s.recOf ctx with shut := false }) with
    egress := s.egress.filter fun e => e.ctx != ctx || e.released
    mast := { s.mast with ending := s.mast.ending.set ctx none none } }
  (s.updCtx ctx fun e => { e with state := 4 }).notice ctx reason

/-- A context is terminated with a REASON (R297); it ends at once when no dispatched D operation is left. A termination that has begun goes on
as it is (log 34). -/
def State.terminate (s : State) (ctx reason : Nat) (hard : Bool) : State :=
  if s.isEnding ctx then s
  else
    let s := s.beginEnd ctx reason hard
    if s.ctxDone ctx then s.finishEnd ctx reason hard else s

/-- A stream that a fatal context fault has stopped: the trap ends its context itself (R88, R297). -/
def Stream.fatal (st : Stream) : Bool := st.run == .stopped && fld st.sys.tcause 0 8 == 13

/-- The streams of a context in the cores and in saved images. -/
def State.everyStream (s : State) (ctx : Nat) : List Stream :=
  (s.ctxStreams ctx).map s.stream ++ (s.saved.filter fun i => i.ctx == ctx).map SavedImg.st

/-- A fatal context fault has stopped a stream of a context. -/
def State.ctxFatal (s : State) (ctx : Nat) : Bool := (s.everyStream ctx).any Stream.fatal

/-- REASON of a termination that answers a trap, a fatal one first, is its CAUSE; of any other that Nymen or an agent asks
for, 0x83 (R297). -/
def State.askReason (s : State) (ctx : Nat) : Nat :=
  if s.ctxFatal ctx then 13
  else match (s.everyStream ctx).find? fun st => st.run == .stopped with
    | some st => (fld st.sys.tcause 0 8).toNat
    | none => 0x83

/-- CONTEXT_TERMINATE (R88, R288, R297): a termination begins, when Nymen or the agent asks for it or a fatal trap ends the context; or it ends
once the dispatched D operations have finished. -/
def execContextTerminate (ctx : Nat) (s : State) : Host.Outcome State Fault Refusal :=
  match s.mast.ending.get ctx none with
  | some (reason, hard) => if s.ctxDone ctx then .next (s.finishEnd ctx reason hard) else .next s
  | none =>
    if (s.ctx ctx).state = 4 ∨ !(s.nymenUp || s.ctxFatal ctx) then .next s else .next (s.terminate ctx (s.askReason ctx) false)

/-! ### Pre-emption -/

/-- PREEMPTION_REQUEST (R292): every member of the gang is asked. -/
def execPreemptionRequest (r : SRef) (s : State) : Host.Outcome State Fault Refusal :=
  if r.core < numCores then
    if s.nymenUp && (s.stream r).launch.isSome && !s.isEnding (s.stream r).owner then
      .next (s.updGang r fun st => { st with preempt := true })
    else .next s
  else .fault .noSuchCore

/-- What may stay in the D queue of a stream that is saved (R292): a registered CBAR or CRED, a stream copy that nothing has
begun to take, an operation stopped under R300. -/
def staysSaved (o : Op) : Bool :=
  o.stage == .finished || o.halted ||
    (o.fault.isNone && match o.body with
      | .cbar _ | .cred .. => true
      | b => b.isStreamCopy && o.moved == 0)

/-- An operation waits for one of the operations `l` of its stream: for its token, or by an edge; or, as an acquire, for the rest of a release that
is stopped under R300. -/
def State.waitsFor (s : State) (r : SRef) (l : List Op) (o : Op) : Bool :=
  (l.any fun e => (o.ins.contains e.out && !((s.stream r).gen e.out).set) || (decide (e.id < o.id) && s.holdsBack r e o)) ||
    s.acqWaits r o Op.halted

/-- The operations of a stream that are stopped under R300, and those that can only go on after one of them (log 35). -/
def State.behindHalted (s : State) (r : SRef) : List Op :=
  (s.stream r).dq.foldl (fun l o => if o.halted || (o.stage != .finished && o.fault.isNone && s.waitsFor r l o) then l ++ [o] else l) []

/-- The D queue of a stream holds nothing but what R292 and R300 except. -/
def State.dRests (s : State) (r : SRef) : Bool :=
  let l := s.behindHalted r
  (s.stream r).dq.all fun o => staysSaved o || l.any fun e => e.id == o.id

/-- Nothing of a stream is in flight but what R292 and R300 except. -/
def State.atRest (s : State) (r : SRef) : Bool :=
  let st := s.stream r
  st.mpx.isEmpty && st.dheld.isEmpty && s.dRests r && st.ckpt.isNone

/-- A stream may be saved: it stands at the boundary after a `%safe` bundle (R89), or cause 10 has stopped it at its checkpoint (R289). -/
def State.savable (s : State) (r : SRef) : Bool :=
  let st := s.stream r
  st.preempt && (st.run == .saved || (st.run == .stopped && fld st.sys.tcause 0 8 == 10)) && s.atRest r

/-- A D operation as a restore dispatches it again: a stream copy from its first byte (R292). -/
def restart (o : Op) : Op := if o.body.isStreamCopy then { o with moved := 0, data := [], segs := none } else o

/-- The image of a stream (R293): its registers and queues, its v clusters, and none of the scratchpad and tiles. A stream
that cause 10 stopped goes on from its checkpoint when it is restored (R289). -/
def State.imageOf (s : State) (r : SRef) : SavedImg :=
  let st := s.stream r
  let st := { st with
    run := if st.run == .saved || (st.run == .stopped && fld st.sys.tcause 0 8 == 10) then .running else st.run
    preempt := false, freezeReq := false, debugReq := false, frozen := {}, dq := st.dq.map restart }
  { s.liveImage r with st }

/-- STATE of a context once it has no stream in a core. -/
def State.markSaved (s : State) (ctx : Nat) : State :=
  if (s.ctxStreams ctx).isEmpty then
    s.updCtx ctx fun e => { e with state := 2 }
  else s

/-- PREEMPTION_LAND (R89, R292, R293): the gang's images are written, and its cores' streams become free. -/
def execPreemptionLand (r : SRef) (s : State) : Host.Outcome State Fault Refusal :=
  if r.core < numCores then
    let g := s.gang r
    if (s.stream r).launch.isSome && g.all s.savable then
      let ctx := (s.stream r).owner
      let imgs := g.map s.imageOf
      .next (({ s with saved := s.saved ++ imgs }.updGang r idleStream).markSaved ctx)
    else .next s
  else .fault .noSuchCore

/-- The images of the oldest saved launch of a context on a sequencer, lead first. -/
def State.oldestSaved (s : State) (ctx : Nat) (w : Strm) : List SavedImg :=
  match s.saved.find? fun i => i.ctx == ctx && i.r.strm == w with
  | none => []
  | some i =>
    let id := i.st.launch.map LaunchInfo.id
    let l := s.saved.filter fun j => j.st.launch.map LaunchInfo.id == id
    (List.range l.length).filterMap fun p => l.find? fun j => (j.st.launch.map LaunchInfo.gpos) == some p

/-- A saved stream fits a stream of a core: it is free, its allotment does not clash with the other stream's, and the
scratchpad is the one that stayed in place or has been saved (R258, R293). -/
def State.imageFits (s : State) (img : SavedImg) (r : SRef) : Bool :=
  let c := s.core r.core
  let l := img.st.launch.getD {}
  let o := (streamOf c r.strm.other).launch.getD {}
  (streamOf c r.strm).launch.isNone && (l.vcl &&& o.vcl) == 0 && decide (l.zt + o.zt ≤ 4) && s.holdersAllow 0 r.core r.strm l.vcl l.zt &&
    (s.partOf img.ctx).cores.contains r.core && (img.spad.isSome || img.r == r)

/-- Streams of launches that move: the launch, the place that a stream leaves, its new one. All of them move at once. -/
abbrev Moves := List (Nat × SRef × SRef)

/-- A reference to a CRED of a stream that may move. -/
def Moves.ref (l : Moves) (c : CredRef) : CredRef :=
  match l.find? fun m => m.1 == c.launch && m.2.1 == c.r with
  | some m => { c with r := m.2.2 }
  | none => c

/-- A packet of a tree whose senders may move. -/
def Moves.pkt (l : Moves) (p : TreePkt) : TreePkt := { p with who := p.who.map l.ref, after := p.after.map l.ref }

/-- A node of a tree that holds such packets. -/
def Moves.node (l : Moves) (n : TreeNode) : TreeNode :=
  { n with insts := n.insts.map fun i => { i with pkts := i.pkts.map l.pkt, own := i.own.map l.pkt } }

/-- A stream whose CREDs wait for others. -/
def Moves.stream (l : Moves) (st : Stream) : Stream := { st with dq := st.dq.map fun o => { o with after := o.after.map l.ref } }

/-- Streams move: every reference to a CRED of one follows it. -/
def State.moveCreds (s : State) (l : Moves) : State :=
  { s with
    cores := s.cores.map fun (p : Nat × Core) => (p.1, { p.2 with main := l.stream p.2.main, miz := l.stream p.2.miz })
    saved := s.saved.map fun i => { i with st := l.stream i.st }
    fabric := { s.fabric with
      nodes := s.fabric.nodes.map fun (p : Nat × TreeNode) => (p.1, l.node p.2)
      flight := s.fabric.flight.map fun p => (p.1, p.2.1, p.2.2.1, l.pkt p.2.2.2) } }

/-- The image of the other stream that ran beside the stream of an image, and whose scratchpad that image holds too. -/
def sibling (img i : SavedImg) : Bool := i.ctx == img.ctx && i.r.core == img.r.core && i.r.strm == img.r.strm.other && i.spad.isSome

/-- The launch of an image. -/
def SavedImg.launchId (i : SavedImg) : Nat := (i.st.launch.map LaunchInfo.id).getD 0

/-- What moves when images are written back at new places: their streams, and the streams whose scratchpad comes back with theirs. -/
def State.movesOf (s : State) (places : List (SavedImg × SRef)) : Moves :=
  places.flatMap fun p => (p.1.launchId, p.1.r, p.2) ::
    if p.1.spad.isSome then (s.saved.filter (sibling p.1)).map fun i => (i.launchId, i.r, { i.r with core := p.2.core }) else []

/-- The scratchpad that an image holds is back in core `core` (R293, R294): the image of the other stream that ran beside it shares it from now
on, and the context's records of the scratchpad log follow it. -/
def State.spadMoves (s : State) (img : SavedImg) (core : Nat) : State :=
  let s := { s with saved := s.saved.map fun i => if sibling img i then { i with spad := none, r := { i.r with core } } else i }
  let u := (s.core img.r.core).undo.filter fun e => e.1 == img.ctx
  if img.r.core = core ∨ u.isEmpty then s
  else (s.updCore img.r.core fun c => { c with undo := c.undo.filter fun e => e.1 != img.ctx }).updCore core fun c => { c with undo := u ++ c.undo }

/-- One image is written back (R294): bank, clusters and tiles are given to the context (R62), every field is restored, TDELEG and CONTAIN in
the registry entry (LOST stays, R295), and the requested point is 5 (R310). The program store is the core's as it stands (log 53). -/
def State.restoreImage (lead : Nat) (s : State) (p : SavedImg × SRef) : State :=
  let (img, r) := p
  let l := img.st.launch.getD {}
  let s := if img.spad.isSome then s.spadMoves img r.core else s
  let s := s.updCtx img.ctx fun e => { e with tdeleg := img.tdeleg, contain := (img.contain &&& ~~~(4 : W64)) ||| (e.contain &&& 4) }
  let s := s.updCore r.core fun c =>
    let c := giveCore img.ctx r.strm l.vcl l.zt c
    let c := { c with v := img.v.foldl (fun (m : SMap VReg) (q : Nat × VReg) => m.set q.1 q.2 0) (c.v.filter fun q => !flag l.vcl (q.1 / 64)) }
    let c := { c with spad := img.spad.getD c.spad, tiles := img.tiles.foldl (fun (t : SMap Tile) (q : Nat × Tile) => t.set q.1 q.2 {}) c.tiles }
    let st := { img.st with
      bank := some img.ctx, launch := some { l with lead }, dq := img.st.dq.map fun o => { o with halted := false }
      sys := { img.st.sys with oppReq := 5 }, ckptAt := some img.st.regs.pc }
    retarget (putStream c r.strm st)
  s

/-- CONTEXT_RESTORE (R62, R119, R292, R294, R310): the oldest saved launch of a context on the sequencer of `r` is restored
with its lead at `r`. -/
def execContextRestore (r : SRef) (ctx : Nat) (s : State) : Host.Outcome State Fault Refusal :=
  let imgs := s.oldestSaved ctx r.strm
  let places := imgs.zipIdx.map fun p => (p.1, (⟨r.core + p.2, r.strm⟩ : SRef))
  if r.core < numCores then
    if s.nymenUp && !imgs.isEmpty && !s.isEnding ctx && (places.all fun p => decide (p.2.core < numCores) && decide (p.2.core / 6 = r.core / 6) && s.imageFits p.1 p.2) then
      let id := (imgs.head?.bind fun i => i.st.launch.map LaunchInfo.id)
      let s := places.foldl (fun s p => s.saveSpads ctx p.2.core) s
      let s := { s with saved := s.saved.filter fun i => i.st.launch.map LaunchInfo.id != id }
      let moves := s.movesOf places
      let s := (places.foldl (State.restoreImage r.core) s).moveCreds moves
      .next (s.updCtx ctx fun e => { e with state := 1 })
    else .next s
  else .fault .noSuchCore

end Sys2Proof.Machine
end

