-- ==== Sys2Proof/Machine/Recovery.lean ====
section
/-! DEFINITION. Recovery points, rollback, memory errors and core errors (R18, R128, R267, R286, R297 to R301). -/
namespace Sys2Proof.Machine

/-! ### Recovery points -/

/-- INTV of CONTAIN in microseconds (R295). -/
def intervalUs (e : CtxEntry) : Nat := 1000 * (fld e.contain 16 8).toNat

/-- A log that holds records of a context, or the egress buffer that holds its writes, is full (R214, R299). -/
def State.logsFull (s : State) (ctx : Nat) : Bool :=
  (!(s.recOf ctx).log.isEmpty && s.logRoom ctx == 0) ||
    (s.cores.any fun p => decide (4096 ≤ p.2.undo.length) && p.2.undo.any fun e => e.1 == ctx) ||
    (s.egressRoom == 0 && s.egress.any fun e => e.ctx == ctx && !e.released)

/-- A recovery point of a context is due (R299). -/
def State.pointDue (s : State) (ctx : Nat) : Bool :=
  let r := s.recOf ctx
  s.logged ctx && (r.taking || r.full || r.due || s.logsFull ctx || decide (r.last + intervalUs (s.ctx ctx) ≤ s.time))

/-- A stream is asked to freeze at its next safe boundary. -/
def askFreeze (st : Stream) : Stream := if st.run == .running && !st.frozen.recovery then { st with freezeReq := true } else st

/-- RECOVERY_POINT (R214, R299): every stream of the context is asked to freeze. -/
def execRecoveryPoint (ctx : Nat) (s : State) : Host.Outcome State Fault Refusal :=
  if s.pointDue ctx then
    let s := s.setRec ctx { s.recOf ctx with taking := true }
    .next ((s.ctxStreams ctx).foldl (fun s r => s.updStream r askFreeze) s)
  else .next s

/-- A stream stands still for a recovery point: frozen, stopped, halted or at its pre-emption boundary, with what R292 and
R300 except in flight. -/
def State.pointReady (s : State) (r : SRef) : Bool :=
  let st := s.stream r
  (st.frozen.recovery || st.run == .stopped || st.run == .halted || st.run == .saved) && st.mpx.isEmpty && st.ckpt.isNone &&
    st.shroud.isEmpty && st.traps.isEmpty && (st.dheld.isEmpty || st.frozen.recovery) && s.dRests r

/-- The image of a stream for a recovery point, with its tiles (R299, R301). -/
def State.recoveryImage (s : State) (r : SRef) : SavedImg :=
  let c := s.core r.core
  let zt := (s.stream r).zt
  { s.imageOf r with tiles := (List.range zt).map fun n => (tileBase r.strm zt + n, c.tiles.get (tileBase r.strm zt + n) {}) }

/-- The saved image of a stream for a recovery point, with its tiles, which may have stayed in place in its core (R293, R299, R301). -/
def State.savedImage (s : State) (i : SavedImg) : SavedImg :=
  if i.spad.isNone ∧ i.tiles.isEmpty then
    let zt := i.st.zt
    let c := s.core i.r.core
    { i with tiles := (List.range zt).map fun n => (tileBase i.r.strm zt + n, c.tiles.get (tileBase i.r.strm zt + n) {}) }
  else i

/-- The cores on which a context has streams. -/
def State.ctxCores (s : State) (ctx : Nat) : List Nat := ((s.ctxStreams ctx).map SRef.core).eraseDups

/-- The cores whose scratchpad logs hold records of a context. -/
def State.loggedCores (s : State) (ctx : Nat) : List Nat := (s.cores.filter fun p => p.2.undo.any fun e => e.1 == ctx).map (·.1)

/-- The records of a context leave a core's scratchpad log. -/
def dropUndo (ctx : Nat) (c : Core) : Core := { c with undo := c.undo.filter fun e => e.1 != ctx }

/-- A node belongs to a tree of the partition of a context (R204). -/
def State.ctxTree (s : State) (ctx key : Nat) : Bool := keyTree key / 65536 == (s.ctx ctx).partition

/-- The nodes at some cores of the trees of a context's partition. -/
def State.nodesAt (s : State) (ctx : Nat) (cores : List Nat) : SMap TreeNode :=
  s.fabric.nodes.filter fun p => s.ctxTree ctx p.1 && cores.contains (keyCore p.1)

/-- A stream thaws after a recovery point; a stopped D operation goes on (R300). -/
def thaw (st : Stream) : Stream :=
  { st with frozen := { st.frozen with recovery := false }, dq := st.dq.map fun o => { o with halted := false } }

/-- RECOVERY_POINT_COMPLETE (R214, R299, R300): the images are written to the area not written last, the logs are emptied, the
interval's held egress is released, and the streams thaw. -/
def execRecoveryPointComplete (ctx : Nat) (s : State) : Host.Outcome State Fault Refusal :=
  let r := s.recOf ctx
  let l := s.ctxStreams ctx
  if r.taking && l.all s.pointReady then
    let cores := s.ctxCores ctx
    let imgs := (l.map s.recoveryImage) ++ (s.saved.filter fun i => i.ctx == ctx).map s.savedImage
    let s := s.setRec ctx {
      interval := r.interval + 1, last := s.time, log := [], images := imgs, nodes := s.nodesAt ctx cores, area := 1 - r.area
      valid := true, lossBy := r.lossBy }
    let s := (s.loggedCores ctx).foldl (fun s c => s.updCore c (dropUndo ctx)) s
    .next (l.foldl (fun s m => s.updStream m thaw) (s.releaseEgress ctx))
  else .next s

/-! ### Rollback -/

/-- Apply the memory log, the latest record first (R301 step 2). -/
def State.undoMemory (s : State) (l : List (Nat × List Byte × Option (Nat × Nat))) : State :=
  l.foldl (fun s p => { s with
    mem := writeBytes s.mem p.1 p.2.1
    keys := { s.keys with lines := s.keys.lines.set (p.1 / 64) p.2.2 none }
    memctl := { s.memctl with bad := s.memctl.bad.set (p.1 / 64) false false } }) s

/-- Apply a context's records of a core's scratchpad log (R301 step 2): to the scratchpad saved in the images of its streams there, else to
the core's own, unless it has passed to other contexts. -/
def State.undoSpad (ctx : Nat) (s : State) (core : Nat) : State :=
  let c := s.core core
  let here (i : SavedImg) : Bool := i.ctx == ctx && i.r.core == core
  let s := s.updCore core (dropUndo ctx)
  if s.saved.any fun i => here i && i.spad.isSome then
    { s with saved := s.saved.map fun i => if here i then { i with spad := i.spad.map (undoBytes ctx c) } else i }
  else if s.saved.any here || c.main.owns ctx || c.miz.owns ctx || (c.main.launch.isNone && c.miz.launch.isNone) then
    s.updCore core fun k => { k with spad := undoBytes ctx c k.spad }
  else s

/-- The stream of a recovery image as it goes on after the rollback (R301 step 3): `y` gives the bank, the binding log and the count of R289,
which stay (R128, R289), and whether a crash of Nymen has frozen the context, which stays so until the thaw (R298). -/
def backStream (i : SavedImg) (y : Stream) (lead : Nat) : Stream :=
  { i.st with
    bank := y.bank, launch := i.st.launch.map fun l => { l with lead }
    dq := i.st.dq.map fun o => { o with halted := false }
    frozen := { i.st.frozen with nymen := y.frozen.nymen }
    sys := { i.st.sys with
      blogm := y.sys.blogm, blogp := y.sys.blogp, seqm := y.sys.seqm, seqp := y.sys.seqp, safeCount := y.sys.safeCount
      oppReq := y.sys.oppReq } }

/-- Stream `w` of a core, with its clusters and tiles, becomes that of a recovery image. -/
def backCore (i : SavedImg) (w : Strm) (st : Stream) (c : Core) : Core :=
  let vcl := (i.st.launch.getD {}).vcl
  putStream { c with
    v := i.v.foldl (fun m q => m.set q.1 q.2 0) (c.v.filter fun q => !flag vcl (q.1 / 64))
    tiles := i.tiles.foldl (fun t q => t.set q.1 q.2 {}) c.tiles } w st

/-- A recovery image is put back in place of the stream of the same launch and position, wherever that is by now (R301 step 3). -/
def State.putImage (s : State) (i : SavedImg) : State :=
  match s.memberOf (i.st.launch.getD {}) with
  | none => s
  | some m =>
    let st := backStream i m.st (m.st.launch.getD {}).lead
    match m.at_ with
    | .live r => s.updCore r.core (backCore i r.strm st)
    | .saved n => { s with saved := s.saved.modify n fun j => { i with st, r := j.r, spad := j.spad } }

/-- A recovery image whose launch has ended since is put back in its core (R301 step 3), with its scratchpad when another context has had the core
since (log 35). -/
def State.revive (s : State) (i : SavedImg) : State :=
  let l := i.st.launch.getD {}
  s.updCore i.r.core fun c =>
    let c := giveCore i.ctx i.r.strm l.vcl l.zt c
    let y := streamOf c i.r.strm
    let y := { y with frozen := { y.frozen with nymen := s.crash.since.isSome } }
    retarget (backCore i i.r.strm (backStream i y l.lead) { c with spad := i.spad.getD c.spad })

/-- The launches of recovery images that have ended since, each back in its cores when these are free, and as a saved launch otherwise (R301 step 3,
log 35). -/
def State.reviveAll (s : State) (l : List SavedImg) : State :=
  ((l.filter fun i => (s.memberOf (i.st.launch.getD {})).isNone).map SavedImg.launchId).eraseDups.foldl (fun s id =>
    let g := l.filter fun i => i.launchId == id
    if g.all fun i => s.imageFits i i.r then g.foldl State.revive s else { s with saved := s.saved ++ g }) s

/-- A node holds something of another context. -/
def TreeNode.foreign (ctx : Nat) (n : TreeNode) : Bool := n.insts.any fun i => (i.pkts ++ i.own.toList).any fun p => p.ctxs.any (· != ctx)

/-- Where the streams of the recovery images have gone since the recovery point. -/
def State.imageMoves (s : State) (l : List SavedImg) : Moves :=
  l.filterMap fun i => (s.memberOf (i.st.launch.getD {})).map fun m => (i.launchId, i.r, m.r)

/-- A node at work starts over. -/
def restartNode : NodeState → NodeState
  | .busy _ _ f tries => .busy [] 0 f tries
  | x => x

/-- The rollback of interval `n` of a context undoes the snapshots that were copied in it: a launch that waits copies its node's anew before it
loads (R267). -/
def State.loseSnaps (s : State) (ctx n : Nat) : State :=
  let lost (k i id : Nat) : Bool := (s.graph k).any fun g => g.allRuns.any fun u =>
    (u.nodes[i]?).any (NodeState.runs id) && u.snaps.contains (i, some n)
  { s with fe := { s.fe with
      graphs := s.fe.graphs.map fun p => (p.1, if p.1 / 256 = ctx then p.2.map fun g =>
        g.mapRuns fun u => { u with snaps := u.snaps.filter fun x => x.2 != some n } else p.2)
      pending := s.fe.pending.map fun p => match p.node, p.dva with
        | some (k, i), some va => if p.ctx = ctx ∧ p.snap.isNone ∧ lost k i p.id then { p with dva := some (payPair p.words 5), snap := some va } else p
        | _, _ => p } }

/-- What the front end and the scheduler have in progress for a context that is rolled back (log 35): the COPY and SIGNAL nodes at work and
the images of launches that are being loaded start over, since the log has restored their bytes; trigger writes of its streams that have not been taken are
discarded. -/
def State.restartWork (s : State) (ctx : Nat) : State :=
  { s with fe := { s.fe with
      graphs := s.fe.graphs.map fun p => (p.1, if p.1 / 256 = ctx then p.2.map fun g =>
        g.mapRuns fun u => { u with nodes := u.nodes.map restartNode } else p.2)
      pending := s.fe.pending.map fun p => if p.ctx = ctx then { p with text := [], data := [], wrote := 0, landed := 0 } else p
      triggers := s.fe.triggers.filter fun t => t.1 != ctx || match t.2.2 with | .stream .. => false | _ => true } }

/-- The context is rolled back to its last recovery point (R301): logs, egress, tree nodes, streams. Launches that started
since then end as failed, and those that have ended since run again (log 35). -/
def State.undoContext (s : State) (ctx : Nat) : State :=
  let r := s.recOf ctx
  let known := r.images.filterMap fun i => i.st.launch.map LaunchInfo.id
  let s := s.loseSnaps ctx r.interval
  let s := ((s.ctxLaunches ctx).filter fun l => !known.contains l).foldl (fun s l => s.endLaunch l true true) s
  let cores := s.ctxCores ctx
  let undone (p : Nat × TreeNode) : Bool := s.ctxTree ctx p.1 &&
    (cores.contains (keyCore p.1) || (r.images.any (fun i => i.r.core == keyCore p.1) && !p.2.foreign ctx))
  let moves := s.imageMoves r.images
  let s := s.undoMemory r.log
  let s := ((s.loggedCores ctx).foldl (State.undoSpad ctx) s).restartWork ctx
  let s := { s with
    egress := s.egress.filter fun e => e.ctx != ctx || e.released
    faults := s.faults.filter fun f => f.ctx != ctx || match f.who with | .op .. => false | _ => true
    fabric := {
      nodes := r.nodes.foldl (fun (m : SMap TreeNode) (p : Nat × TreeNode) => m.set p.1 (moves.node p.2) {}) (s.fabric.nodes.filter fun (p : Nat × TreeNode) => !undone p)
      flight := s.fabric.flight.filter fun p => p.2.2.2.ctxs != [ctx] } }
  let imgs := r.images.map fun i => { i with st := moves.stream i.st }
  let s := imgs.foldl State.putImage (s.reviveAll imgs)
  s.setRec ctx { r with log := [], taking := false, full := false, shut := false, due := false }

/-! ### Errors -/

/-- Whether a table of level `l` maps a line of local memory. -/
def State.tableMaps (s : State) (line : Nat) : Nat → Nat → Bool
  | 0, table => (List.range 512).any fun i =>
      match s.walk (4096 * i) 0 table with
      | .ok (b, leaf) => leafEgr leaf == 0 && decide (entryPa leaf ≤ 64 * line) && decide (64 * line < entryPa leaf + 2 ^ b)
      | .error _ => false
  | l + 1, table => (List.range 512).any fun i =>
      let e := s.entry (l + 1) table (i * 2 ^ (12 + 9 * (l + 1)))
      flag e 0 && !entryBad (l + 1) (levelSize (l + 1)) e &&
        if flag e 1 then
          leafEgr e == 0 && decide (entryPa e ≤ 64 * line) && decide (64 * line < entryPa e + 2 ^ levelSize (l + 1))
        else s.tableMaps line l (entryPa e)

/-- Whether a context maps a line. -/
def State.maps (s : State) (ctx line : Nat) : Bool := s.tableMaps line 4 ((s.ctx ctx).ptroot.toNat / 4096 * 4096)

/-- An error strikes a context (R301): rollback to its recovery image, or termination with REASON 0x81 without a complete
image, 0x82 without protection. One that is being terminated ends as it is (R297, log 34). -/
def State.strike (s : State) (ctx : Nat) : State :=
  if s.isEnding ctx then s
  else if s.protected ctx then
    if (s.recOf ctx).valid then (s.undoContext ctx).post 10 (okey 1 ctx) (BitVec.ofNat 64 ctx) (noticeWord ctx 0)
    else s.terminate ctx 0x81 true
  else s.terminate ctx 0x82 true

/-- The crash of Nymen (R298 steps 1 to 3): the Mast's cores halt with the records that they handle, every context freezes, the front end stops
at packet boundaries, and contexts without KWARM are terminated. -/
def State.nymenCrash (s : State) : State :=
  let live := s.mast.registry.filter fun p => p.2.state == 1 || p.2.state == 2 || p.2.state == 3
  let s := s.streams.foldl (fun s p => s.updStream p.1 fun st => { st with frozen := { st.frozen with nymen := true } }) s
  let s := { s with fe := { s.fe with stopped := true }, crash := { since := some s.time } }
  live.foldl (fun s p => if flag p.2.contain 0 then s else s.terminate p.1 0x80 false) s

/-- The contexts that have not ended. -/
def State.liveCtxs (s : State) : List (Nat × CtxEntry) :=
  s.mast.registry.filter fun p => p.2.state == 1 || p.2.state == 2 || p.2.state == 3

/-- Every frozen context is terminated with REASON 0x80 (R298). -/
def State.endFrozen (s : State) : State := s.liveCtxs.foldl (fun s p => s.terminate p.1 0x80 false) s

/-- Nymen crashes, once it runs (R274, R298); a crash before the thaw ends every frozen context. -/
def State.crashAgain (s : State) : State :=
  if s.crash.since.isSome then s.endFrozen else if s.nymenUp then s.nymenCrash else s

/-- A context whose line has an error (R301 step 4): after the rollback, a line that the log did not restore is read again; a
second failure, which the manual leaves open, terminates it with REASON 0x81. -/
def State.strikeLine (s : State) (ctx line : Nat) : State :=
  if s.protected ctx && (s.recOf ctx).valid && !s.isEnding ctx then
    let t := s.undoContext ctx
    if t.memctl.bad.get line false then
      let (w, t) := t.draw
      if flag w 0 then t.terminate ctx 0x81 true
      else ({ t with memctl := { t.memctl with bad := t.memctl.bad.set line false false } }).post 10 (okey 1 ctx)
        (BitVec.ofNat 64 ctx) (noticeWord ctx 0)
    else t.post 10 (okey 1 ctx) (BitVec.ofNat 64 ctx) (noticeWord ctx 0)
  else s.strike ctx

/-- UNCORRECTABLE_MEMORY_ERROR (R18, R277, R301): event 8 is posted, and every context that maps the line is rolled back or
terminated. An error in the Mast's own memory, a line under key slot 0 that no context maps, counts as a Nymen crash. -/
def execUncorrectableMemoryError (pa : Nat) (s : State) : Host.Outcome State Fault Refusal :=
  if pa < memSize then
    let line := pa / 64
    let s := s.post 8 (okey 3 0) (BitVec.ofNat 64 pa) (BitVec.ofNat 64 (pa / 2 ^ 36))
    let s := { s with memctl := { s.memctl with bad := s.memctl.bad.set line true false } }
    let hit := s.mast.registry.filter fun p => (p.2.state == 1 || p.2.state == 2 || p.2.state == 3) && s.maps p.1 line
    if hit.isEmpty then
      match s.keys.lines.get line none with
      | some (0, _) => .next s.crashAgain
      | _ => .next s
    else .next (hit.foldl (fun s p => s.strikeLine p.1 line) s)
  else .fault .noSuchAddress

/-- Cause 14 of a stream whose core has failed is taken, with no rollback to its checkpoint (R286, R287, R301). -/
def State.hardTrap (unit : Nat) (s : State) (r : SRef) : State :=
  let st := s.stream r
  s.takeTrap r ⟨14, BitVec.ofNat 29 unit, st.regs.pc, st.bundleNo, BitVec.ofNat 3 ((st.launch.map (·.gpos)).getD 0)⟩

/-- CORE_HARDWARE_ERROR (R286 to R288, R301): every stream of the core takes cause 14 on route 0; then each context is rolled back or
terminated. -/
def execCoreHardwareError (core unit : Nat) (s : State) : Host.Outcome State Fault Refusal :=
  if core < numCores then
    let l := s.streams.filter fun p => p.1.core == core && !s.isEnding p.2.owner
    let s := (l.map (·.1)).foldl (State.hardTrap unit) s
    .next (((l.map fun p => p.2.owner).eraseDups).foldl (fun s c => s.strike c) s)
  else .fault .noSuchCore

end Sys2Proof.Machine
end

