-- ==== Sys2Proof/Machine/Mast.lean ====
section
/-! DEFINITION. The Mast: events, crash and restart, boot, partitions, keys, tables (R4, R5, R18, R25, R269, R273 to R278, R283,
R295, R296, R298, R302, R304, R313). -/
namespace Sys2Proof.Machine

/-! ### Events -/

/-- A Mast core handles the events of an OKEY (R278). -/
def Mast.handled (m : Mast) (k : W32) : Bool := m.handling.any fun p => (p.2.map EventRec.okey) == some k

/-- Records that waited at their sources enter the queue while there is room (R278); their TIME is that of queuing. -/
def Mast.refill (m : Mast) (now : Nat) : Mast :=
  let n := 8192 - m.events.length
  { m with events := m.events ++ (m.deferred.take n).map fun e => { e with time := now }, deferred := m.deferred.drop n }

/-- EVTAKE (R278): an idle Mast core takes the oldest record whose OKEY no other core handles. The Mast cores handle events once Nymen runs
on them, and not while they are halted (R274, R298). -/
def execEvtake (mc : Nat) (s : State) : Host.Outcome State Fault Refusal :=
  let m := s.mast
  if s.nymenUp ∧ mc < 12 ∧ m.handling.get mc none = none then
    match m.events.find? fun e => !m.handled e.okey with
    | some e =>
      let i := m.events.findIdx fun e => !m.handled e.okey
      let m := { m with events := m.events.eraseIdx i, handling := m.handling.set mc (some e) none }
      .next { s with mast := m.refill s.time }
    | none => .next s
  else .next s

/-- EVACK (R278): the Mast core is idle again. -/
def execEvack (mc : Nat) (s : State) : Host.Outcome State Fault Refusal :=
  if s.nymenUp then .next { s with mast := { s.mast with handling := s.mast.handling.set mc none none } } else .next s

/-! ### Crash and restart -/

/-- NYMEN_CRASH (R298). -/
def execNymenCrash (s : State) : Host.Outcome State Fault Refusal := .next s.crashAgain

/-- NYMEN_THAW (R298 steps 4 to 6): Nymen starts warm from its retained image, adopts the entries whose CRC matches, ends the
others, and thaws. -/
def execNymenThaw (s : State) : Host.Outcome State Fault Refusal :=
  match s.crash.since with
  | none => .next s
  | some t =>
    if s.time ≤ t + 1000000 ∧ sha256 s.boot.nymenImage = s.boot.nymenHash then
      let s := s.liveCtxs.foldl (fun s p => if ctxSealed p.1 p.2 then s else s.terminate p.1 0x80 false) s
      let s := s.streams.foldl (fun s p => s.updStream p.1 fun st => { st with frozen := { st.frozen with nymen := false } }) s
      .next { s with fe := { s.fe with stopped := false }, crash := {} }
    else .next s

/-- WARM_RESTART_TIMEOUT (R298): Nymen has not thawed within 1 s of the crash. -/
def execWarmRestartTimeout (s : State) : Host.Outcome State Fault Refusal :=
  match s.crash.since with
  | none => .next s
  | some t => if t + 1000000 < s.time then .next s.endFrozen else .next s

/-! ### Boot -/

/-- COLD_RESET (R4, R274, R310): every field takes its reset value; the fuses keep theirs. -/
def execColdReset (s : State) : Host.Outcome State Fault Refusal :=
  .next { State.reset with
    agenda := s.agenda, free := s.free
    boot := { keyHash := s.boot.keyHash, revoked := s.boot.revoked, minSvn := s.boot.minSvn } }

/-- Bytes 0 to 95 of an image (R275). -/
def imgHead (i : FwImage) : List Byte :=
  leBytes 4 i.magic.toNat ++ leBytes 2 i.kind.toNat ++ leBytes 2 i.keyIx.toNat ++ leBytes 4 i.svn.toNat ++ leBytes 4 i.len.toNat ++
    leBytes 8 i.load.toNat ++ leBytes 8 i.entry.toNat ++ i.hash ++ i.pubkey

/-- The bytes of an image. -/
def imgBytes (i : FwImage) : List Byte := imgHead i ++ i.sig ++ i.payload

/-- The signer of an image is accepted, with the least SVN that it may carry (R275). -/
def Boot.signer (b : Boot) (i : FwImage) : Option W32 :=
  let n := i.keyIx.toNat
  if i.kind = 3 then
    let k := b.owners.get n {}
    if n < 256 ∧ k.valid ∧ !k.revoked ∧ i.pubkey = k.key then some k.minSvn else none
  else if n < 4 ∧ b.keyHash[n]? = some (sha256 i.pubkey) ∧ !b.revoked.getD n false then some (b.minSvn.get i.kind.toNat 0)
  else none

/-- R275: an image is accepted by a stage that expects `kind`. -/
def Boot.accepts (b : Boot) (kind : Nat) (i : FwImage) : Bool :=
  i.magic == 0x5A170C3D && i.kind.toNat == kind && decide (1 ≤ kind) && decide (kind ≤ 4) &&
    i.len.toNat == i.payload.length && decide (1 ≤ i.len.toNat) && decide (i.len.toNat ≤ 0x1000000) &&
    decide (i.load ≤ i.entry) && decide (i.entry.toNat < i.load.toNat + i.len.toNat) &&
    i.hash.length == 32 && i.pubkey.length == 32 && i.sig.length == 7856 &&
    (match b.signer i with | some v => decide (v ≤ i.svn) | none => false) &&
    Config.slhDsaVerify i.pubkey (imgHead i) i.sig && sha256 i.payload == i.hash

/-- The KIND that a stage expects (R274); none once a stage has stopped (R275). -/
def Boot.expects (b : Boot) : Nat := match b.stage with | 0 => 1 | 1 => 4 | 2 => 2 | 3 => 3 | _ => 0

/-- The memory controllers are trained: the monitor has done that when it loads the substitute microcode (R274). -/
def MemCtl.train (m : MemCtl) : MemCtl := { m with trained := true }

/-- An accepted image takes effect (R274): its SHA-256 is appended to the measurement log, and its stage goes on; Nymen's image is retained
with its HASH (R298), and an agent's image starts the agent of partition `part`. -/
def State.bootGo (s : State) (img : FwImage) (part : Nat) : State :=
  let b := { s.boot with measured := s.boot.measured ++ [sha256 (imgBytes img)] }
  match b.stage with
  | 0 => { s with boot := { b with stage := 1 } }
  | 1 => { s with boot := { b with stage := 2 }, memctl := s.memctl.train }
  | 2 => { s with boot := { b with stage := 3, nymenHash := img.hash, nymenImage := img.payload } }
  | _ => { s with boot := b }.setPart part { s.part part with agent := true }

/-- A rejected image (R275): the ROM waits for another one; any other rejection stops its stage (Nymen goes on where the agents' stage
stops) and is reported in the mailbox status word, whose value the manual leaves open. -/
def State.bootStop (s : State) : State :=
  if s.boot.stage = 0 then s
  else
    let (w, s) := s.draw
    { s with boot := { s.boot with status := w, stage := if s.boot.stage < 3 then 4 else 5 } }

/-- BOOT_IMAGE (R274, R275): the host has written an image into the mailbox window of 17 MiB, and the stage that awaits one verifies it. Nymen
starts the agent of an active partition; it starts none while it is halted. Nothing comes in while the link is held in reset (R23). -/
def execBootImage (img : MailboxImage) (s : State) : Host.Outcome State Fault Refusal :=
  let bs := imgBytes img.image
  if !s.links.pcieHeld ∧ bs.length ≤ 17825792 then
    let s := { s with boot := { s.boot with mailbox := bs } }
    if 3 < s.boot.stage ∨ (s.boot.stage = 3 ∧ (!s.nymenUp ∨ !(s.part img.part).active)) then .next s
    else if s.boot.accepts s.boot.expects img.image then .next (s.bootGo img.image img.part)
    else .next s.bootStop
  else .next s

/-- FUSE_MINIMUM_RAISE (R273, R275): the monitor, which alone reaches the fuses, raises a fused minimum. -/
def execFuseMinimumRaise (kind : ByMast Nat) (svn : W32) (s : State) : Host.Outcome State Fault Refusal :=
  let n := kind.arg
  if kind.who = .monitor ∧ 1 ≤ s.boot.stage ∧ (n = 1 ∨ n = 2 ∨ n = 4) ∧ s.boot.minSvn.get n 0 < svn then
    .next { s with boot := { s.boot with minSvn := s.boot.minSvn.set n svn 0 } }
  else .next s

/-- GET_MEASUREMENTS (R23, R274): Data Object Exchange reports the measurement log, unless the link is held in reset. -/
def execGetMeasurements (s : State) : Host.Outcome State Fault Refusal :=
  if s.links.pcieHeld then .next s else .next { s with links := { s.links with doe := s.boot.measured } }

/-! ### Memory shares -/

/-- Bandwidth of one stack in tenths of a GB/s (R17). -/
def stackBandwidth : Nat := 26624

/-- The bandwidth left in the package, in tenths of a GB/s. -/
def State.bandwidth (s : State) : Nat := ((List.range 8).map fun k => s.memctl.left.get k stackBandwidth).sum

/-- The bandwidth that R316 guarantees to a partition, in tenths of a GB/s. -/
def State.share (s : State) (n : Nat) : Nat :=
  let memsh (p : Partition) : Nat := (fld p.ppower 40 8).toNat
  let sum := ((s.mast.parts.filter fun p => p.2.active).map fun p => memsh p.2).sum
  s.bandwidth * memsh (s.part n) / (if 256 < sum then sum else 256)

/-- Each active partition is guaranteed its share of what remains (R304, R316). -/
def State.shareOut (s : State) : State :=
  let l := (s.mast.parts.filter fun p => p.2.active).map fun p => (p.1, s.share p.1)
  { s with memctl := { s.memctl with shares := l.foldl (fun m p => m.set p.1 p.2 0) [] } }

/-! ### Partitions and keys -/

/-- The cores of a list, each once, ascending. -/
def coreList (l : List Nat) : List Nat := (List.range numCores).filter l.contains

/-- A list of cores may belong to a partition (R25). -/
def State.coresFree (s : State) (part : Nat) (l : List Nat) : Bool :=
  (l.all fun c => decide (c < numCores)) && s.mast.parts.all fun p => p.1 == part || !p.2.active || p.2.cores.all fun c => !l.contains c

/-! ### Clusters -/

/-- The power cluster of a core (R14). -/
def clusterOf (core : Nat) : Nat := 3 * (core % 36 / 6 / 2) + core % 6 / 2

/-- The cores of a cluster of a die. -/
def clusterCores (die cluster : Nat) : List Nat := (List.range 36).map (36 * die + ·) |>.filter fun c => clusterOf c == cluster

/-- The key of a cluster in the lending table. -/
def lendKey (die cluster : Nat) : Nat := 9 * die + cluster

/-- An entry of the lending table. -/
def Arbiter.lend (a : Arbiter) (k : Nat) : Lend := a.lending.get k {}

/-- The partition of a core. -/
def State.coreOwner (s : State) (core : Nat) : Option Nat :=
  (s.mast.parts.find? fun p => p.2.active && p.2.cores.contains core).map (·.1)

/-- Change an entry of the lending table. -/
def State.updLend (s : State) (die cluster : Nat) (f : Lend → Lend) : State :=
  let k := lendKey die cluster
  { s with arbiter := { s.arbiter with lending := s.arbiter.lending.set k (f (s.arbiter.lend k)) {} } }

/-- A cluster none of whose cores a partition holds is gated (R308). -/
def State.gatedCluster (s : State) (die cluster : Nat) : Bool := (clusterCores die cluster).all fun c => (s.coreOwner c).isNone

/-- A core is ungated: its bucket holds BURST (R313). -/
def fillBucket (c : Core) : Core := { c with power := { c.power with bucket := (fld c.power.pgrant 24 24).toNat } }

/-- Core `c` is ungated. A cluster that lent because it was gated, as `was` says, goes on lending as an idle one, and an idle cluster stays
idle, until one of its cores issues a bundle or receives a launch (R308). -/
def State.ungate (was : Nat → Nat → Bool) (s : State) (c : Nat) : State :=
  let die := c / 36
  let cl := clusterOf c
  let s := if was die cl then s.updLend die cl fun l => { l with idle := true } else s
  let idle := (s.arbiter.lend (lendKey die cl)).idle
  s.updCore c fun k => { fillBucket k with quiet := if idle then 1024 else k.quiet }

/-- A core of no launch. -/
def State.coreIdle (s : State) (c : Nat) : Bool := (s.core c).main.launch.isNone && (s.core c).miz.launch.isNone

/-- PARTITION_CREATE (R25, R269, R274, R304, R313, R316), by Nymen. -/
def execPartitionCreate (part : Nat) (cores : List Nat) (s : State) : Host.Outcome State Fault Refusal :=
  let l := coreList cores
  if s.nymenUp ∧ !(s.part part).active ∧ part < 256 ∧ (s.mast.parts.filter fun p => p.2.active).length < 40 ∧ s.coresFree part cores then
    let was := s.gatedCluster
    let s := s.setPart part { active := true, cores := l, since := s.time }
    let s := { s with fe := { s.fe with cursors := s.fe.cursors.set part (l.headD 0) 0 }
                      arbiter := { s.arbiter with grants := s.arbiter.grants.set part 0 0 } }
    .next (l.foldl (State.ungate was) s).shareOut
  else .next s

/-- PARTITION_RESIZE (R25, R313): cores that run a launch stay. -/
def execPartitionResize (part : Nat) (cores : List Nat) (s : State) : Host.Outcome State Fault Refusal :=
  let l := coreList cores
  let p := s.part part
  if s.nymenUp ∧ p.active ∧ s.coresFree part cores ∧ p.cores.all (fun c => l.contains c || s.coreIdle c) then
    let new := l.filter fun c => !p.cores.contains c
    .next (new.foldl (State.ungate s.gatedCluster) (s.setPart part { p with cores := l }))
  else .next s

/-- The trees of a partition end with it (R204, R207): the instances held, the numbers of their nodes and the packets in the links. -/
def State.endTrees (s : State) (part : Nat) : State :=
  let keep (l : SMap TreeNode) : SMap TreeNode := l.filter fun p => keyTree p.1 / 65536 != part
  { s with
    fabric := { nodes := keep s.fabric.nodes, flight := s.fabric.flight.filter fun p => p.2.1 / 65536 != part }
    recov := s.recov.map fun p => (p.1, { p.2 with nodes := keep p.2.nodes }) }

/-- PARTITION_DESTROY (R25, R316): a partition whose cores run no launch. Its trees end. -/
def execPartitionDestroy (part : Nat) (s : State) : Host.Outcome State Fault Refusal :=
  if s.nymenUp ∧ (s.part part).cores.all s.coreIdle then .next ((s.endTrees part).setPart part {}).shareOut else .next s

/-! ### Who may write what -/

/-- The Mast's software runs in a mode (R273, R274, R298): the monitor once its image is accepted, Nymen once it runs, and under Nymen the
agent that has started in an active partition. -/
def State.mastRuns (s : State) : MastActor → Bool
  | .monitor => decide (1 ≤ s.boot.stage)
  | .nymen => s.nymenUp
  | .agent p => s.nymenUp && (s.part p).active && (s.part p).agent

/-- Some of `n` bytes of memory at `pa` lie in a bounds table, 128 entries of 16 bytes (R229). -/
def State.inBounds (s : State) (pa n : Nat) : Bool :=
  s.mast.registry.any fun p => decide (pa < p.2.boundsPa.toNat + 2048) && decide (p.2.boundsPa.toNat < pa + n)

/-- G-stage translation lets the agent of partition `p` reach `n` bytes of memory at `pa` under key `key`: they are the partition's (R273,
R302). -/
def State.agentMem (s : State) (p pa key n : Nat) : Bool :=
  s.keys.owner.get key none == some p && (s.part p).mem.any fun r => decide (r.1 ≤ pa) && decide (pa + n ≤ r.1 + r.2)

/-- Who may make a write (R273, R280, R283): Nymen all of them. The monitor and an agent write neither a bounds table nor a table that only
Nymen writes; an agent writes only the registry entries of its partition's contexts, which Nymen has made, and its partition's memory. -/
def State.mastMay (s : State) (who : MastActor) (w : MastWrite) : Bool :=
  s.mastRuns who && match who, w with
    | .nymen, _ => true
    | .monitor, .registry .. | .monitor, .ethLink .. | .monitor, .uaForm .. | .monitor, .msix .. => true
    | .monitor, .memory pa _ bs => !s.inBounds pa bs.length
    | .agent p, .registry ctx _ => s.mast.registry.any fun e => e.1 == ctx && e.2.partition == p
    | .agent p, .memory pa key bs => !s.inBounds pa bs.length && s.agentMem p pa key bs.length
    | _, _ => false

/-- A registry entry as `who` leaves it (R273): page-table root, bounds table, TDELEG, CONTAIN and RANK are Nymen's alone, and an entry's
partition is no agent's to change. -/
def entryWrite (who : MastActor) (old e : CtxEntry) : CtxEntry :=
  let e := if who = .nymen then e
    else { e with ptroot := old.ptroot, boundsPa := old.boundsPa, tdeleg := old.tdeleg, contain := old.contain, rank := old.rank }
  match who with
  | .agent _ => { e with partition := old.partition }
  | _ => e

/-- The encryption engines' key slots, which the 10-bit key of a leaf selects (R26). -/
def numKeys : Nat := 1024

/-- KEY_SLOT_LOAD (R273, R302): a slot is loaded with a new key, for Nymen by the monitor, which alone reaches the slots (log 50). -/
def execKeySlotLoad (slot : ByMast Nat) (s : State) : Host.Outcome State Fault Refusal :=
  let n := slot.arg
  if n < numKeys ∧ slot.who = .monitor ∧ s.mastRuns .monitor then
    .next { s with keys := { s.keys with loads := s.keys.loads.set n (s.keys.loads.get n 0 + 1) 0 } }
  else .next s

/-! ### Tables and registers -/

/-- CONTAIN as a write leaves it (R5, R295): Reserved fields read zero, LOST is status. -/
def containWrite (old new : W64) : W64 := (new &&& 0xFF0003) ||| (old &&& 4)

/-- Configure a UALink station: its links train anew (R22). -/
def Links.setForm (l : Links) (station : Nat) (f : UaForm) : Links :=
  { l with forms := l.forms.set station f .x4, ua := l.ua.filter fun p => p.1 / 4 != station }

/-- MAST_REGISTER_WRITE (R5, R21 to R23, R26, R122, R203, R229, R269, R273, R280, R283, R284, R295, R296, R302, R304): a write of the Mast's
software to a table, a register or memory. No slot beyond the engines' keys exists to write or to encrypt with (R26). A fabric group takes any
number of launches (log 50), and PSAFEMAX keeps 0 (log 37). -/
def execMastRegisterWrite (w : ByMast MastWrite) (s : State) : Host.Outcome State Fault Refusal :=
  if s.mastMay w.who w.arg then
    match w.arg with
    | .registry ctx e =>
      if ctx < 65536 then
        let e := entryWrite w.who (s.ctx ctx) e
        .next (s.putCtx ctx { e with contain := containWrite (s.ctx ctx).contain e.contain })
      else .next s
    | .memory pa key bs =>
      if pa + bs.length ≤ memSize then
        if s.memctl.trained ∧ key < numKeys then .next (s.memWrite key pa bs) else .next s
      else .fault .noSuchAddress
    | .queue qid e => if qid < 4096 then .next (s.setQueue qid { e with slot := (s.queue qid).slot }) else .next s
    | .peer ix bs =>
      if ix < 256 ∧ bs.length = 32 then
        .next { s with peers := { s.peers with table := s.peers.table.set ix bs [] } }
      else .next s
    | .launchRec n v => .next (s.setPart n { s.part n with launchRec := v &&& 0x7FFFFFFFF })
    | .ppower n v => .next (s.setPart n { s.part n with ppower := v &&& 0xFFFFFF000FFF }).shareOut
    | .weight n v => .next (s.setPart n { s.part n with weight := v })
    | .station ix st => if ix < 4 then .next { s with peers := { s.peers with stations := s.peers.stations.set ix st {} } } else .next s
    | .ownerKey ix k => if ix < 256 then .next { s with boot := { s.boot with owners := s.boot.owners.set ix k {} } } else .next s
    | .rank ctx r => .next (s.updCtx ctx fun e => { e with rank := r })
    | .fabricGroup l g => .next { s with fe := { s.fe with groups := s.fe.groups.set l g 0 } }
    | .keyOwner slot n =>
      if slot < numKeys then .next { s with keys := { s.keys with owner := s.keys.owner.set slot (some n) none } } else .next s
    | .gstage n l => .next (s.setPart n { s.part n with mem := l })
    | .ethLink p llr cbfc =>
      if p < 8 then
        .next { s with links := { s.links with llr := s.links.llr.set p llr false, cbfc := s.links.cbfc.set p cbfc false } }
      else .next s
    | .uaForm st f => if st < 4 then .next { s with links := s.links.setForm st f } else .next s
    | .msix n => if n < 32 ∧ !s.links.pcieHeld then .next { s with links := { s.links with msix := s.links.msix ++ [n] } } else .next s
  else .next s

end Sys2Proof.Machine
end

