-- ==== Sys2Proof/Machine/Debug.lean ====
section
/-! DEFINITION. The debug window (R303). -/
namespace Sys2Proof.Machine

/-! ### The meanings -/

/-- DEBUG_UNLOCK (R303): an authenticated session that the partition agent approves; the agent answers while the Mast runs
(R298). Nothing reaches a function whose link is held in reset (R23). -/
def execDebugUnlock (part : Nat) (authenticated approved : Bool) (s : State) : Host.Outcome State Fault Refusal :=
  if s.nymenUp && !s.links.pcieHeld && authenticated && approved then .next (s.setPart part { s.part part with unlocked := true }) else .next s

/-- The window exposes the partition of a stream (R23, R303). -/
def State.debuggable (s : State) (r : SRef) : Bool := !s.links.pcieHeld && (s.partOf (s.stream r).owner).unlocked && (s.stream r).launch.isSome

/-- DEBUG_STOP (R303): the stop lands as a pre-emption does. -/
def execDebugStop (r : SRef) (s : State) : Host.Outcome State Fault Refusal :=
  if r.core < numCores then
    if s.debuggable r then .next (s.updGang r fun st => { st with debugReq := true }) else .next s
  else .fault .noSuchCore

/-- A stream that the window shows: stopped by a trap, or frozen by a debug stop, which lands as a pre-emption does, once what R292 waits
for has retired. -/
def State.exposed (s : State) (r : SRef) : Bool :=
  s.debuggable r && ((s.stream r).run == .stopped || ((s.stream r).frozen.debug && s.atRest r))

/-- DEBUG_ACCESS (R303): the scratchpad, the context image, a tile, or a change of an exposed stream. -/
def execDebugAccess (a : DebugAccess) (s : State) : Host.Outcome State Fault Refusal :=
  let out (bs : List Byte) : State := { s with debugOut := s.debugOut ++ [bs] }
  match a with
  | .read r addr n =>
    if r.core < numCores then
      if s.exposed r && inSpad addr n then .next (out (readBytes (s.core r.core).spad addr n)) else .next s
    else .fault .noSuchCore
  | .readReg r off =>
    if r.core < numCores then
      if s.exposed r then .next (out (leBytes 8 (imageWord (s.liveImage r) off).toNat)) else .next s
    else .fault .noSuchCore
  | .readTile r z off =>
    if r.core < numCores then
      if s.exposed r && decide (z < (s.stream r).zt) then
        let t := (s.core r.core).tiles.get (tileBase r.strm (s.stream r).zt + z) {}
        .next (out (leBytes 8 (tileWordAt t (off / 8)).toNat))
      else .next s
    else .fault .noSuchCore
  | .write r e =>
    if r.core < numCores then
      if s.exposed r then .next (s.edit r e) else .next s
    else .fault .noSuchCore

/-- DEBUG_SESSION_END (R303): the unlock ends, and streams that a debug stop holds go on (log 39). -/
def execDebugSessionEnd (part : Nat) (s : State) : Host.Outcome State Fault Refusal :=
  let s := s.setPart part { s.part part with unlocked := false }
  .next ((s.streams.filter fun p => (s.ctx p.2.owner).partition == part).foldl
    (fun s p => s.updStream p.1 fun st => { st with debugReq := false, frozen := { st.frozen with debug := false } }) s)

end Sys2Proof.Machine
end

