-- ==== Sys2Proof/Machine/Power.lean ====
section
/-! DEFINITION. Power and links: the arbiter's epoch, droop, lending, operating points, the meter, thermal limits, timers (R29,
R277, R304 to R311, R313 to R316), training of links and corrected errors (R18, R20 to R24). -/
namespace Sys2Proof.Machine

/-! ### Grants -/

/-- Frequencies of the operating points in units of 10 MHz (R27). -/
def pointFreq (n : Nat) : Nat := [70, 80, 95, 110, 125, 140, 160, 180].getD n 180

/-- RATE for a power in mW: the energy of one cycle in pJ, rounded down, at most what the field holds. -/
def rateOf (mw point : Nat) : Nat := min 1023 (mw * 100 / pointFreq point)

/-- The power that a core has borrowed from the clusters of its die, in mW (R308). -/
def Arbiter.borrowed (a : Arbiter) (core : Nat) : Nat :=
  (a.lending.map fun p => (p.2.shares.map fun q => if q.1 = core then q.2 else 0).sum).sum

/-- Power of a recalled cluster that has not been returned, in mW. -/
def Arbiter.owed (a : Arbiter) (k : Nat) : Nat := if (a.lend k).recallAt.isSome then ((a.lend k).shares.map (·.2)).sum else 0

/-- The power that a core may draw: its grant, less its part of what its own cluster has not got back, and what it has
borrowed (R308). -/
def Arbiter.power (a : Arbiter) (core : Nat) : Nat :=
  let g := a.cores.get core 0
  let k := lendKey (core / 36) (clusterOf core)
  let sum := ((clusterCores (core / 36) (clusterOf core)).map fun c => a.cores.get c 0).sum
  let back := if sum = 0 then 0 else a.owed k * g / sum
  g - back + a.borrowed core

/-- Whether a droop penalty holds a core (R307). -/
def State.penalised (s : State) (core : Nat) : Bool :=
  s.arbiter.penalties.any fun d => d.die == core / 36 && d.cluster == clusterOf core && s.coreOwner core == some d.part

/-- Write RATE of a core's PGRANT (R306). -/
def setRate (n : Nat) (c : Core) : Core :=
  { c with power := { c.power with pgrant := (c.power.pgrant &&& ~~~(0x3FF : W64)) ||| BitVec.ofNat 64 n } }

/-- Write REEF of a core's PGRANT; the target may change (R306, R311). -/
def setReef (n : Nat) (c : Core) : Core :=
  retarget { c with power := { c.power with
    pgrant := (c.power.pgrant &&& ~~~(0x700000000000000 : W64)) ||| BitVec.ofNat 64 (n % 8 * 2 ^ 56) } }

/-- The arbiter writes the RATE of a core, halved under a droop penalty (R305, R307, R308). -/
def State.writeRate (s : State) (core : Nat) : State :=
  let n := rateOf (s.arbiter.power core) (s.core core).power.point
  s.updCore core (setRate (if s.penalised core then n / 2 else n))

/-- The arbiter writes the RATE of every core of a die. -/
def State.writeDie (s : State) (die : Nat) : State := (List.range 36).foldl (fun s c => s.writeRate (36 * die + c)) s

/-- Measured and denied power of a core, in mW. -/
def measuredOf (m : List (Nat × Nat × Nat)) (core : Nat) : Nat × Nat := ((m.find? fun p => p.1 == core).map (·.2)).getD (0, 0)

/-- The demand of a core: what it drew and what stalls denied it (R305 step 2). -/
def demandOf (m : List (Nat × Nat × Nat)) (core : Nat) : Nat := (measuredOf m core).1 + (measuredOf m core).2

/-- CAP of a partition in mW (R304). -/
def capOf (p : Partition) : Nat := 1000 * min 2400 (fld p.ppower 0 12).toNat

/-- A lending entry whose power is back with its cluster. -/
def Lend.done (l : Lend) : Lend := { l with shares := [], recallAt := none }

/-- Recalls end within 4 µs (R29, R308). -/
def Arbiter.endRecalls (a : Arbiter) (now : Nat) : Arbiter :=
  { a with lending := a.lending.map fun (p : Nat × Lend) => if p.2.recallAt.any (fun t => decide (t ≤ now)) then (p.1, p.2.done) else p }

/-- The entries of the lending table that nothing recalls have lent nothing yet in an epoch (R308). -/
def Arbiter.unlent (a : Arbiter) : Arbiter :=
  { a with lending := a.lending.map fun (p : Nat × Lend) => if p.2.recallAt.isSome then p else (p.1, { p.2 with shares := [] }) }

/-- What the borrowers still have when an epoch that ends at `now` gives its grants: loans under recall that are not back by then (R308). -/
def Arbiter.standing (a : Arbiter) (now : Nat) : Arbiter := (a.endRecalls now).unlent

/-- The grant of a partition before scaling (R305 step 2), in mW; what its cores still have of other clusters' power counts against its CAP (R308). -/
def State.partGrant (s : State) (m : List (Nat × Nat × Nat)) (n : Nat) (p : Partition) : Nat :=
  let lent := (p.cores.map (s.arbiter.standing (s.time + 1)).borrowed).sum
  min (capOf p - lent) (min (p.cores.map (demandOf m)).sum (s.arbiter.grants.get n 0 + 1000 * (fld p.ppower 24 16).toNat))

/-- Steps 2 to 4 of R305: the grants of the partitions and of their cores. -/
def State.grant (s : State) (m : List (Nat × Nat × Nat)) : Arbiter :=
  let parts := s.mast.parts.filter fun p => p.2.active
  let raw := parts.map fun p => (p.1, p.2, s.partGrant m p.1 p.2)
  let total := (raw.map fun p => p.2.2).sum
  let scaled := raw.map fun p => (p.1, p.2.1, if 2400000 < total then p.2.2 * 2400000 / total else p.2.2)
  let cores := scaled.flatMap fun p =>
    let d := (p.2.1.cores.map (demandOf m)).sum
    p.2.1.cores.map fun c => (c, if d = 0 then 0 else p.2.2 * demandOf m c / d)
  { s.arbiter with
    grants := scaled.foldl (fun g p => g.set p.1 p.2.2 0) []
    cores := cores.foldl (fun g p => g.set p.1 p.2 0) [] }

/-- Whether a cluster lends: idle, or gated because no partition has a core of it (R308). -/
def State.lends (s : State) (a : Arbiter) (die cl : Nat) : Bool :=
  (a.lend (lendKey die cl)).idle || s.gatedCluster die cl

/-- What one cluster offers to each active core of its die: what it does not draw of its last grant, in proportion to demand (R308). A
cluster that is being recalled offers nothing. -/
def State.offers (s : State) (m : List (Nat × Nat × Nat)) (a : Arbiter) (die cl : Nat) : List (Nat × Nat) :=
  if (a.lend (lendKey die cl)).recallAt.isSome || !s.lends a die cl then []
  else
    let own := clusterCores die cl
    let spare := (own.map fun c => s.arbiter.cores.get c 0).sum - (own.map fun c => (measuredOf m c).1).sum
    let takers := ((List.range 36).map (36 * die + ·)).filter fun c => (s.coreOwner c).isSome && !s.lends a die (clusterOf c)
    let d := (takers.map (demandOf m)).sum
    takers.map fun c => (c, if d = 0 then 0 else spare * demandOf m c / d)

/-- Each partition may borrow up to its CAP, its grant and what it has still borrowed from clusters under recall counted (R308). -/
def State.lendRoom (s : State) (a : Arbiter) (part : Nat) : Nat :=
  capOf (s.part part) - ((s.part part).cores.map fun c => a.cores.get c 0 + a.borrowed c).sum

/-- Every idle or gated cluster lends (R308); `a` holds what is still lent. Where the offers to a partition's cores exceed what its CAP leaves, each is cut in the same
proportion (log 21). -/
def State.lendAll (s : State) (m : List (Nat × Nat × Nat)) (a : Arbiter) : Arbiter :=
  let all : List (Nat × Nat × Nat) := (List.range 36).flatMap fun k => (s.offers m a (k / 9) (k % 9)).map fun q => (k, q)
  let total (p : Nat) : Nat := ((all.filter fun x => s.coreOwner x.2.1 == some p).map fun x => x.2.2).sum
  let cut (c n : Nat) : Nat := ((s.coreOwner c).map fun p => if s.lendRoom a p < total p then n * s.lendRoom a p / total p else n).getD 0
  all.foldl (fun b x =>
    let l := b.lend x.1
    if cut x.2.1 x.2.2 = 0 then b
    else { b with lending := b.lending.set x.1 { l with shares := l.shares ++ [(x.2.1, cut x.2.1 x.2.2)] } {} }) a

/-- The droop penalties of some clusters end: the cores have their REEF and their RATE back (R307). -/
def State.endDroops (s : State) (due : Droop → Bool) : State :=
  let l := s.arbiter.penalties.filter due
  let s := { s with arbiter := { s.arbiter with penalties := s.arbiter.penalties.filter fun d => !due d } }
  let reefs := (l.flatMap Droop.reefs).filter fun p => decide (p.1 < numCores)
  reefs.foldl (fun s p => (s.updCore p.1 (setReef p.2)).writeRate p.1) s

/-- ARBITER_EPOCH (R29, R304 to R308): 1 µs has passed, by which the penalties and recalls whose time is over have ended. `measured` gives
core, power drawn and power denied, in mW. -/
def execArbiterEpoch (measured : List (Nat × Nat × Nat)) (s : State) : Host.Outcome State Fault Refusal :=
  if measured.all fun p => decide (p.1 < numCores) then
    let s := s.endDroops fun d => decide (d.ends ≤ s.time)
    let a := (s.grant measured).standing (s.time + 1)
    let s := { s with time := s.time + 1, arbiter := s.lendAll measured a }
    .next ((List.range 4).foldl State.writeDie s)
  else .fault .noSuchCore

/-! ### Droop -/

/-- The partition whose cores in a cluster raised their current most, the lowest on ties (R307). -/
def mostRise : List (Nat × Nat) → Option (Nat × Nat)
  | [] => none
  | p :: t => match mostRise t with
    | none => some p
    | some q => if q.2 < p.2 ∨ (q.2 = p.2 ∧ p.1 < q.1) then some p else some q

/-- The rise of metered current, over the preceding 256 cycles, of the partitions that have cores in a cluster: what the event gives, and 0
for those that it does not name. -/
def State.rises (s : State) (die cl : Nat) (rise : List (Nat × Nat)) : List (Nat × Nat) :=
  ((clusterCores die cl).filterMap s.coreOwner).eraseDups.map fun p => (p, ((rise.find? fun q => q.1 == p).map (·.2)).getD 0)

/-- A droop of `mv` mV at a core (R307): one of more than 40 mV halves, for 4 µs, the RATE of the blamed partition's cores in the cluster,
and lowers their REEF by one point. A further event while its penalty is in force makes it last 4 µs from then (log 41). -/
def State.droop (s : State) (core : Nat) (mv : Nat) (rise : List (Nat × Nat)) : State :=
  let s := s.updCore core fun c => { c with vsense := BitVec.ofNat 64 (mv % 4096) }
  let die := core / 36
  let cl := clusterOf core
  let mine (p : Nat) (d : Droop) : Bool := d.die == die && d.cluster == cl && d.part == p
  match mostRise (s.rises die cl rise) with
  | some (part, _) =>
    if mv ≤ 40 then s
    else if s.arbiter.penalties.any (mine part) then
      let longer := s.arbiter.penalties.map fun d => if mine part d then { d with ends := s.time + 4 } else d
      { s with arbiter := { s.arbiter with penalties := longer } }
    else
      let reefs := ((clusterCores die cl).filter fun c => s.coreOwner c == some part).map fun c => (c, (s.core c).power.reef)
      let s := { s with arbiter := { s.arbiter with penalties := s.arbiter.penalties ++ [⟨die, cl, part, reefs, s.time + 4⟩] } }
      reefs.foldl (fun s p => (s.updCore p.1 fun c => setReef (p.2 - 1) (setRate ((fld c.power.pgrant 0 10).toNat / 2) c))) s
  | none => s

/-- DROOP_EVENT (R307): a core's VSENSE shows a droop. `rise` gives the rise of metered current of each partition in the cluster. -/
def execDroopEvent (core : Nat) (mv : Nat) (rise : List (Nat × Nat)) (s : State) : Host.Outcome State Fault Refusal :=
  if core < numCores then .next (s.droop core mv rise) else .fault .noSuchCore

/-- DROOP_PENALTY_END (R307): the penalties of the cluster whose 4 µs are over end. -/
def execDroopPenaltyEnd (die cluster : Nat) (s : State) : Host.Outcome State Fault Refusal :=
  .next (s.endDroops fun d => d.die == die && d.cluster == cluster && decide (d.ends ≤ s.time))

/-! ### Lending -/

/-- A die and a cluster of the package. -/
def clusterOk (die cluster : Nat) : Bool := decide (die < 4) && decide (cluster < 9)

/-- Every core of a cluster is gated, or has issued no bundle for 1,024 cycles (R308). -/
def State.quiet (s : State) (die cluster : Nat) : Bool :=
  (clusterCores die cluster).all fun c => s.gated c || decide (1024 ≤ (s.core c).quiet)

/-- CLUSTER_IDLE (R308): none of its cores has issued a bundle for 1,024 cycles. -/
def execClusterIdle (die cluster : Nat) (s : State) : Host.Outcome State Fault Refusal :=
  if clusterOk die cluster then
    if s.quiet die cluster then .next (s.updLend die cluster fun l => { l with idle := true }) else .next s
  else .fault .noSuchCore

/-- CLUSTER_REACTIVATE (R29, R308): a core of an idle cluster has issued a bundle or received a launch; the lent power is recalled within
4 µs, and until it is back the cores refill at their grant less what is owed. A recall that is in progress keeps its time. -/
def execClusterReactivate (die cluster : Nat) (s : State) : Host.Outcome State Fault Refusal :=
  if clusterOk die cluster then
    if (s.arbiter.lend (lendKey die cluster)).idle && !s.quiet die cluster then
      let back := s.updLend die cluster fun l =>
        { l with idle := false, recallAt := if l.shares.isEmpty then none else some (l.recallAt.getD (s.time + 4)) }
      .next (if (s.arbiter.lend (lendKey die cluster)).shares.isEmpty then back else (clusterCores die cluster).foldl State.writeRate back)
    else .next s
  else .fault .noSuchCore

/-- LENDING_RECALL_COMPLETE (R29, R308): the borrowers' RATE values are lowered, and the cluster has its grant again. -/
def execLendingRecallComplete (die cluster : Nat) (s : State) : Host.Outcome State Fault Refusal :=
  if clusterOk die cluster then
    if (s.arbiter.lend (lendKey die cluster)).recallAt.isSome then .next ((s.updLend die cluster Lend.done).writeDie die) else .next s
  else .fault .noSuchCore

/-! ### Points, meter, memory, timers -/

/-- A bundle holds an OPP that a stream would execute. -/
def asksPoint (b : Bundle) (st : Stream) : Bool :=
  b.slots.any fun i => (match i with | .opp .. => true | _ => false) && guardHolds st.regs i.guard

/-- The next bundle of a stream holds an OPP that would issue (R310, R311). A member of a gang executes its lead's (R195), the oldest that waits
in its Shroud first. -/
def State.oppNext (s : State) (r : SRef) : Bool :=
  let st := s.stream r
  let lead : SRef := { r with core := (st.launch.map LaunchInfo.lead).getD r.core }
  let l := s.stream lead
  match st.shroud with
  | x :: _ => st.traps.isEmpty && asksPoint x.bundle st
  | [] => st.mayIssue && l.mayIssue && match (fetchBundle (s.core lead.core) (64 * (l.launch.getD {}).tlen) l.regs.pc).res with
    | .ok b => asksPoint b st
    | .error _ => false

/-- OPP_TRANSITION_COMPLETE (R311). -/
def execOppTransitionComplete (core : Nat) (s : State) : Host.Outcome State Fault Refusal :=
  if core < numCores then .next (s.updCore core (endTransition (s.oppNext ⟨core, .main⟩ || s.oppNext ⟨core, .miz⟩))) else .fault .noSuchCore

/-- METER_WINDOW_END (R315): the meter's report of the window of 64 cycles in progress, one for each window; what it holds beyond the declared
weights is debited in the first cycle after the window (`tick`). -/
def execMeterWindowEnd (core : Nat) (usedPj : Nat) (s : State) : Host.Outcome State Fault Refusal :=
  if core < numCores then
    .next (s.updCore core fun c => { c with power := { c.power with used := some (c.power.used.getD usedPj) } })
  else .fault .noSuchCore

/-- THERMAL_LIMIT (R17, R277, R316): a stack's bandwidth changes to `left` tenths of a GB/s, at most the whole of it, as when a limit is lifted; what
is left is shared out, and event 11 carries what is left in the package, in GB/s rounded down (log 49). -/
def execThermalLimit (stack : Nat) (left : Nat) (s : State) : Host.Outcome State Fault Refusal :=
  if stack < 8 then
    let t := { s with memctl := { s.memctl with left := s.memctl.left.set stack (min left stackBandwidth) stackBandwidth } }.shareOut
    if t.bandwidth = s.bandwidth then .next t else .next (t.post 11 (okey 3 0) (BitVec.ofNat 64 (t.bandwidth / 10)) 0)
  else .fault .noSuchAddress

/-- MAST_TIMER (R277): event 9. -/
def execMastTimer (part n : Nat) (s : State) : Host.Outcome State Fault Refusal :=
  .next (s.post 9 (okey 2 part) (BitVec.ofNat 64 part) (BitVec.ofNat 64 n))

/-! ### Links -/

/-- ETHERNET_LINK_TRAINING (R20): one of the 8 ports trains. -/
def execEthernetLinkTraining (port : Nat) (form : EthForm) (s : State) : Host.Outcome State Fault Refusal :=
  if port < 8 then .next { s with links := { s.links with eth := s.links.eth.set port form .down } } else .next s

/-- The number of links of a UALink station (R22). -/
def linkCount : UaForm → Nat
  | .x4 => 1
  | .x2x2 => 2
  | .x1x4 => 4

/-- UALINK_LINK_TRAINING (R22): a link of a station trains; the station's form says how many it has. -/
def execUalinkLinkTraining (station link : Nat) (rate : UaRate) (s : State) : Host.Outcome State Fault Refusal :=
  if station < 4 ∧ link < linkCount (s.links.forms.get station .x4) then
    .next { s with links := { s.links with ua := s.links.ua.set (4 * station + link) rate .down } }
  else .next s

/-- PCIE_LINK_TRAINING (R23): at 6.0 the link runs in flit mode; below 4.0 or below x1 it is held in reset, and the event is logged: a
count, since no event type of R277 is its own (log 50). -/
def execPcieLinkTraining (gen width : Nat) (s : State) : Host.Outcome State Fault Refusal :=
  if 4 ≤ gen ∧ gen ≤ 6 ∧ (width = 1 ∨ width = 2 ∨ width = 4 ∨ width = 8) then
    .next { s with links := { s.links with pcieGen := gen, pcieWidth := width, flit := gen == 6, pcieHeld := false } }
  else
    .next { s with links := { s.links with pcieGen := 0, pcieWidth := 0, flit := false, pcieHeld := true, pcieLog := s.links.pcieLog + 1 } }

/-- UCIE_MODULE_TRAINING (R24): edges 0 to 3 are the ring's, with 8 modules each, 4 to 7 those to the IO-die, with 12.
The boot monitor trains them (R274). -/
def execUcieModuleTraining (edge modl : Nat) (res : UcieState) (s : State) : Host.Outcome State Fault Refusal :=
  if 1 ≤ s.boot.stage ∧ ((edge < 4 ∧ modl < 8) ∨ (4 ≤ edge ∧ edge < 8 ∧ modl < 12)) then
    .next { s with links := { s.links with ucie := s.links.ucie.set (16 * edge + modl) res .untrained } }
  else .next s

/-- CORRECTED_SOFT_ERROR (R18): counted, and no fault. One count serves the package (log 50). -/
def execCorrectedSoftError (pa : Nat) (s : State) : Host.Outcome State Fault Refusal :=
  if pa < memSize then .next { s with memctl := { s.memctl with corrected := s.memctl.corrected + 1 } }
  else .fault .noSuchAddress

end Sys2Proof.Machine
end

