-- ==== Sys2Proof/Machine/Matrix.lean ====
section
/-! DEFINITION. What the operations of vM compute: tiles, operands, the checks in the order of R60, the terms of R45, the
drain, and the streamed operands (R36 to R50, R60, R130 to R140, R178, R226, R352, R354, R358, R403). -/
namespace Sys2Proof.Machine

/-! ### How an engine operation ends -/

/-- The end of a run of an M, P or X operation: it waits for a streamed operand, it completes with a status, or it raises a
trap cause and retires with no effect (R88, R178). -/
inductive EngEnd where
  | wait
  | done (s : State) (status : Nat)
  | trap (cause : Nat) (detail : BitVec 29)

/-- A scratchpad access of an engine: first byte, bytes, whether it writes. -/
abbrev EngAcc := Nat × Nat × Bool

/-- Whether accesses of engine `eng` lie in the stream's sets (R178). -/
def engInSets (st : Stream) (eng : Nat) (l : List EngAcc) : Bool :=
  match st.regs.phase.sets with
  | none => true
  | some sets => l.all fun a => inSets sets eng a.1 a.2.1 a.2.2

/-- The scratchpad bytes that a stream's engine reads (R84). -/
def State.engRead (s : State) (r : SRef) (a n : Nat) : List Byte := spadRead (s.core r.core) r.strm a n

/-- An engine's writes enter the withholding buffer, in list order (R84); a line beyond its 1024 is a fatal context fault
(R88). -/
def State.engWrite (s : State) (r : SRef) (l : List (Nat × List Byte)) (status : Nat) : EngEnd :=
  let wh := l.foldl (fun w p => withhold w p.1 p.2) (s.stream r).withheld
  if 1024 < lineCount wh then .trap 13 2
  else .done (s.updStream r fun st => { st with withheld := wh }) status

/-! ### Tiles -/

/-- `n` elements of a tile, from element `i`. -/
def denseTile : Nat → Nat → SMap Acc → List Acc
  | 0, _, _ => []
  | n + 1, i, [] => {} :: denseTile n (i + 1) []
  | n + 1, i, (k, e) :: t =>
    if k = i then e :: denseTile n (i + 1) t else {} :: denseTile n (i + 1) ((k, e) :: t)

/-- The map of a list of elements, the first with number `i`. -/
def sparseTile : Nat → List Acc → SMap Acc
  | _, [] => []
  | i, e :: t => if e = {} then sparseTile (i + 1) t else (i, e) :: sparseTile (i + 1) t

/-- Every element of a tile (R130), z[i][j] at 128 i + j. -/
def Tile.elems (t : Tile) : List Acc := denseTile 16384 0 t.z

/-- A tile with its elements replaced. -/
def Tile.withElems (t : Tile) (l : List Acc) : Tile := { t with z := sparseTile 0 l }

/-- Change the tile of a core for a stream (R82, R83). -/
def State.updTile (s : State) (r : SRef) (z : Nat) (f : Tile → Tile) : State :=
  s.updCore r.core fun c => coreWriteTile c r.strm z (f (c.tiles.get z {}))

/-- The signed anchor of a tile (R43). -/
def Tile.anc (t : Tile) : Int := t.anchor.toInt

/-! ### O4 blocks -/

/-- A decoded O4 block (R36 to R40): its elements before scaling, its scale, whether it is malformed. -/
structure O4Block where
  vals : List Num
  scale : Num
  mal : Bool
  deriving DecidableEq, Repr, Inhabited

/-- Code `i` of a block as stored (R36). -/
def o4Raw (w i : Nat) : Nat := w / 2 ^ (4 * i) % 16

/-- Code `i` of a block of which `valid` elements lie in the operand (R40). -/
def o4Code (w valid i : Nat) : Nat := if i < valid then o4Raw w i else 0

/-- The outliers of a block, in ascending order (R38). -/
def o4Outliers (w valid : Nat) : List Nat := (List.range 8).filter fun i => o4Code w valid i == 8

/-- A malformed block (R39): a pair of outliers, or three of them. -/
def o4Malformed (w valid : Nat) : Bool :=
  let l := o4Outliers w valid
  decide (3 ≤ l.length) || l.any fun i => l.contains (i ^^^ 1)

/-- Element `i` of a block that is not malformed (R37, R38). -/
def o4Elem (w valid i : Nat) : Num :=
  let tail := w / 2 ^ 56
  if o4Code w valid i = 8 then
    let low := if (o4Outliers w valid).head? = some i then tail % 16 else tail / 16 % 16
    Num.decode .e4m3 (16 * o4Raw w (i ^^^ 1) + low)
  else if o4Code w valid (i ^^^ 1) = 8 then .zero false
  else Num.ofInt (BitVec.ofNat 4 (o4Code w valid i)).toInt

/-- Decode a block. -/
def o4Block (w valid : Nat) : O4Block :=
  let mal := o4Malformed w valid
  { vals := (List.range (min valid 8)).map fun i => if mal then .nan else o4Elem w valid i
    scale := Num.decode .s24 (w / 2 ^ 32 % 2 ^ 24)
    mal }

/-- The blocks of `k` elements held in bytes (R42). -/
def o4Blocks (bs : List Byte) (k : Nat) : List O4Block :=
  (List.range ((k + 7) / 8)).map fun j => o4Block (leNat ((bs.drop (8 * j)).take 8)) (k - 8 * j)

/-! ### Operand descriptors -/

/-- The fields of an operand descriptor (R133). -/
structure MDesc where
  spar : Nat
  strm : Bool
  k : Nat
  stride : Nat
  addr : Nat
  deriving DecidableEq, Repr, Inhabited

/-- Reads an operand descriptor. -/
def MDesc.ofWord (d : W64) : MDesc :=
  ⟨(fld d 54 2).toNat, flag d 53, (fld d 40 13).toNat, (fld d 28 12).toNat, (fld d 0 19).toNat⟩

/-- The fields of a scale descriptor (R135). -/
structure SDesc where
  ns : Nat
  stride : Nat
  addr : Nat
  deriving DecidableEq, Repr, Inhabited

/-- Reads a scale descriptor. -/
def SDesc.ofWord (d : W64) : SDesc := ⟨(fld d 44 12).toNat, (fld d 28 16).toNat, (fld d 0 25).toNat⟩

/-- The least multiple of 64 at or above `n`. -/
def up64 (n : Nat) : Nat := (n + 63) / 64 * 64

/-- The size in bytes of an element of a format that is not O4. -/
def fmtSize (fc : BitVec 4) : Nat := ((Fmt.ofCode fc).map Fmt.size).getD 1

/-- The size in bytes of one vector (R134). -/
def vecBytes (fc : BitVec 4) (k spar : Nat) : Nat :=
  if fc = 1 then 8 * ((k + 7) / 8)
  else if spar = 1 ∨ spar = 2 then up64 (k / 2 * fmtSize fc) + (k / 2 * (spar + 1) + 7) / 8
  else k * fmtSize fc

/-- The address of vector `n` of a scratchpad operand. -/
def MDesc.vec (d : MDesc) (n : Nat) : Nat := 64 * (d.addr + n * d.stride)

/-- The first byte and the end of the extent of a scratchpad operand. -/
def MDesc.extent (d : MDesc) (fc : BitVec 4) : Nat × Nat := (d.vec 0, d.vec 127 + vecBytes fc d.k d.spar)

/-- The bank groups that an operand touches (R136). -/
def MDesc.groups (d : MDesc) (fc : BitVec 4) : List Nat :=
  if d.strm then []
  else
    let e := d.extent fc
    (List.range 4).filter fun n => decide (e.1 < 0x600000 * (n + 1)) && decide (0x600000 * n < e.2)

/-- Reserved values that one operand shows (R134). -/
def MDesc.reserved (d : MDesc) (fc : BitVec 4) (isA : Bool) : Bool :=
  d.k == 0 || decide (4096 < d.k) || (d.spar != 0 && (!isA || fc == 1)) ||
  ((d.spar == 1 || d.spar == 2) && d.k % (4 * d.spar) != 0) ||
  (if d.strm then d.addr != 0 || d.stride != 0 else d.stride == 0 || decide (0x1800000 < (d.extent fc).2))

/-- A scale run beyond the scratchpad (R135). -/
def SDesc.reserved (d : SDesc) (k : Nat) : Bool := decide (0x1800000 < d.addr + 127 * d.stride + 3 * ((k + 7) / 8))

/-! ### Streamed operands -/

/-- The stream copies that the streamed operands of an operation took, each with the length that R226 asks for. -/
def feedNeeds (o : Op) : List (Nat × Nat) :=
  match o.body with
  | .mma _ da db _ _ fa fb =>
    let a := MDesc.ofWord da
    let b := MDesc.ofWord db
    let need (d : MDesc) (fc : BitVec 4) : Nat := 128 * up64 (vecBytes fc d.k d.spar)
    o.feeds.zip ((if a.strm then [need a fa] else []) ++ (if b.strm then [need b fb] else []))
  | _ => []

/-- LEN of a stream copy. -/
def copyLen (o : Op) : Nat := match o.body with | .cpy _ _ d1 _ _ => (fld d1 32 25).toNat | _ => 0

/-- Whether a matched copy has another length than its operand (R226). -/
def feedMismatch (st : Stream) (p : Nat × Nat) : Bool :=
  match st.dq.find? fun c => c.id == p.1 with
  | some c => copyLen c != p.2
  | none => false

/-- A match of R226 that gives status 2: no copy was left, or its length differs. -/
def feedsBad (st : Stream) (o : Op) : Bool := (feedNeeds o).any fun p => p.1 == 0 || feedMismatch st p

/-- What becomes of a copy when its operation ends with a status other than 0 (R226): a copy of another length completes
with status 17 when the status is 2; one that has ended is forgotten; any other is taken and discarded. -/
def State.dropFeed (status : Nat) (r : SRef) (s : State) (p : Nat × Nat) : State :=
  match s.dOp r p.1 with
  | none => s
  | some c =>
    if c.stage = .finished then s.updStream r fun st => { st with dq := st.dq.filter fun x => x.id != c.id }
    else if status = 2 && copyLen c != p.2 then s.dRetire r { c with moved := 1, fault := none } 17
    else s.setDOp r { c with stage := .started }

/-- The copies of an operation that ends with a status other than 0 (R226, R402). -/
def State.dropFeeds (s : State) (r : SRef) (o : Op) (status : Nat) : State :=
  (feedNeeds o).foldl (State.dropFeed status r) s

/-- What a streamed operand gives. -/
inductive Feed where
  | wait
  | gone
  | failed
  | bytes (l : List Byte)
  deriving DecidableEq, Repr, Inhabited

/-- A matrix operation takes a copy whole (R226): the state afterwards, and its bytes. It waits while the copy may not act
or is suspended; a copy that a pending trap discards is gone (R227). -/
def State.takeFeed (s : State) (r : SRef) (id : Nat) : State × Feed :=
  let st := s.stream r
  match s.dOp r id with
  | none => (s, .failed)
  | some c =>
    if !st.traps.isEmpty && decide (st.dupId ≤ id) then (s, .gone)
    else if c.stage = .finished then (s, .failed)
    else if !s.dReady r c || tokensBad st c then (s, .wait)
    else match s.dAttempt r c with
      | (s', c', .done 0) => (s'.setDOp r { c' with stage := .bound, data := [] }, .bytes c'.data)
      | (_, _, .done _) => (s, .failed)
      | _ => (s, .wait)

/-- Take the copies of an operation, A before B. -/
def State.takeAll (r : SRef) : List (Nat × Nat) → State → State × Option (List (List Byte)) × Feed
  | [], s => (s, some [], .bytes [])
  | p :: t, s =>
    match s.takeFeed r p.1 with
    | (s, .bytes l) =>
      match State.takeAll r t s with
      | (s, some ls, f) => (s, some (l :: ls), f)
      | x => x
    | (s, f) => (s, none, f)

/-! ### Operands -/

/-- One vector of an operand: its K elements, the scales of each block, and which blocks are malformed. -/
structure Vec where
  vals : List Num
  scales : List (List Num)
  mal : List Bool
  deriving DecidableEq, Repr, Inhabited

/-- The positions of the values of a sparse vector (R134). -/
def sparsePos (w k spar : Nat) (bs : List Byte) : List Nat :=
  let x := leNat (bs.drop (up64 (k / 2 * w)))
  (List.range (k / 2)).map fun i => x / 2 ^ ((spar + 1) * i) % 2 ^ (spar + 1)

/-- Two values of one group of `m` positions share a position (R134). -/
def sparseDup (m : Nat) (pos : List Nat) : Bool :=
  (List.range (2 * pos.length / m)).any fun g =>
    let l := (pos.drop (g * (m / 2))).take (m / 2)
    decide (l.eraseDups.length ≠ l.length)

/-- The elements of a sparse vector; positions not supplied are zero (R134). -/
def sparseVals (f : Fmt) (k spar : Nat) (bs : List Byte) : List Num :=
  let m := 4 * spar
  let pos := sparsePos f.size k spar bs
  (List.range k).map fun x =>
    match (List.range (m / 2)).find? fun i => pos.getD (x / m * (m / 2) + i) m == x % m with
    | some i => Num.decode f (leNat ((bs.drop (f.size * (x / m * (m / 2) + i))).take f.size))
    | none => .zero false

/-- The elements of a dense vector (R31, R134). -/
def denseVals (f : Fmt) : Nat → List Byte → List Num
  | 0, _ => []
  | k + 1, bs => Num.decode f (leNat (bs.take f.size)) :: denseVals f k (bs.drop f.size)

/-- Decode a vector (R134): `sc` holds the S24 scales that MMAS supplies for it, none when it supplies none (R135). -/
def decodeVec (fc : BitVec 4) (k spar : Nat) (bs : List Byte) (sc : List Num) : Vec :=
  let extra (j : Nat) : List Num := match sc[j]? with | some x => [x] | none => []
  let nb := (k + 7) / 8
  if fc = 1 then
    let bl := o4Blocks bs k
    { vals := (bl.map O4Block.vals).flatten
      scales := (List.range nb).map fun j => (bl.getD j default).scale :: extra j
      mal := bl.map O4Block.mal }
  else
    let f := (Fmt.ofCode fc).getD .int8
    { vals := if spar = 1 ∨ spar = 2 then sparseVals f k spar bs else denseVals f k bs
      scales := (List.range nb).map extra
      mal := List.replicate nb false }

/-- The scales of vector `n` (R135). -/
def State.scaleRun (s : State) (r : SRef) (sd : Option W64) (k n : Nat) : List Num :=
  match sd with
  | none => []
  | some w =>
    let d := SDesc.ofWord w
    denseVals .s24 ((k + 7) / 8) (s.engRead r (d.addr + n * d.stride) (3 * ((k + 7) / 8)))

/-- The bytes of vector `n`: of the scratchpad, or of a streamed operand (R134, R226). -/
def State.vecData (s : State) (r : SRef) (d : MDesc) (fc : BitVec 4) (feed : List Byte) (n : Nat) : List Byte :=
  let vb := vecBytes fc d.k d.spar
  if d.strm then (feed.drop (n * up64 vb)).take vb else s.engRead r (d.vec n) vb

/-- The 128 vectors of an operand. -/
def State.operand (s : State) (r : SRef) (d : MDesc) (fc : BitVec 4) (sd : Option W64) (feed : List Byte) : List Vec :=
  (List.range 128).map fun n => decodeVec fc d.k d.spar (s.vecData r d fc feed n) (s.scaleRun r sd d.k n)

/-- A sparse-metadata error in the positions of operand A (R134). -/
def State.sparseBad (s : State) (r : SRef) (d : MDesc) (fc : BitVec 4) (feed : List Byte) : Bool :=
  (d.spar == 1 || d.spar == 2) && (List.range 128).any fun n =>
    sparseDup (4 * d.spar) (sparsePos (fmtSize fc) d.k d.spar (s.vecData r d fc feed n))

/-! ### Terms -/

/-- The terms of an element (R45, R137): one for each k, or one for each block when an operand is block-scaled; with each
whether it came from a malformed block. -/
def termsOf (blocked : Bool) (a b : Vec) : List (Num × Bool) :=
  let p := List.zipWith Num.mul a.vals b.vals
  if blocked then
    (List.range a.scales.length).map fun j =>
      ((Num.sum ((p.drop (8 * j)).take 8)).scaleBy (a.scales.getD j [] ++ b.scales.getD j []),
       a.mal.getD j false || b.mal.getD j false)
  else p.map fun t => (t, false)

/-- Every term enters an element (R46). -/
def addTerms (e : Acc) (l : List (Num × Bool)) (anchor : Int) : Acc :=
  l.foldl (fun e t => accTerm e t.1 t.2 anchor) e

/-- The terms that `keep` names among those numbered from `n` on. -/
def keepTerms (keep : Nat → Bool) (n : Nat) (l : List (Num × Bool)) : List (Num × Bool) :=
  (l.zipIdx.filter fun t => keep (n + t.2)).map (·.1)

/-- Term `t` of element (i, j) of an MMA or MMAS has the number 4096 (128 i + j) + t. -/
def mmaTermNo (i j t : Nat) : Nat := 4096 * (128 * i + j) + t

/-- The tile once those terms of an MMA or MMAS that `keep` names have entered (R137, R141). -/
def mmaTile (blocked : Bool) (a b : List Vec) (keep : Nat → Bool) (t : Tile) : Tile :=
  let es := t.elems
  t.withElems ((List.range 128).flatMap fun i =>
    List.zipWith (fun e v => addTerms e (keepTerms keep (mmaTermNo i v.2 0) (termsOf blocked (a.getD i default) v.1)) t.anc)
      ((es.drop (128 * i)).take 128) b.zipIdx)

/-- The checks of MMA and MMAS that need no scratchpad byte, in the order of R60 (R134 to R136, R403). -/
def mmaCheck (st : Stream) (o : Op) (da db : W64) (sa sb : Option W64) (fa fb : BitVec 4) : Nat :=
  let a := MDesc.ofWord da
  let b := MDesc.ofWord db
  let nb := (a.k + 7) / 8
  let sres (x : Option W64) : Bool := match x with | some w => (SDesc.ofWord w).reserved a.k | none => false
  let sbad (x : Option W64) : Bool := match x with | some w => decide ((SDesc.ofWord w).ns < nb) | none => false
  let obad (d : MDesc) (fc : BitVec 4) : Bool := fc == 1 && !d.strm && decide (64 * d.stride < 8 * nb)
  if a.reserved fa true || b.reserved fb false || a.k != b.k || (a.strm && b.strm) || sres sa || sres sb || feedsBad st o
  then 2
  else if (a.groups fa).any fun n => (b.groups fb).contains n then 3
  else if obad a fa || obad b fb || sbad sa || sbad sb then 4
  else if a.spar = 3 then 5
  else 0

/-- The scratchpad reads of an operand (R178). -/
def operandReads (d : MDesc) (fc : BitVec 4) (sd : Option W64) : List EngAcc :=
  (if d.strm then [] else (List.range 128).map fun n => (d.vec n, vecBytes fc d.k d.spar, false)) ++
  match sd with
  | some w =>
    let x := SDesc.ofWord w
    (List.range 128).map fun n => (x.addr + n * x.stride, 3 * ((d.k + 7) / 8), false)
  | none => []

/-- The reads of the positions of A. -/
def positionReads (d : MDesc) (fc : BitVec 4) : List EngAcc :=
  if (d.spar = 1 ∨ d.spar = 2) ∧ !d.strm then
    let w := up64 (d.k / 2 * fmtSize fc)
    (List.range 128).map fun n => (d.vec n + w, vecBytes fc d.k d.spar - w, false)
  else []

/-- The bytes of streamed operand A of an MMA or MMAS. -/
def feedA (d : MDesc) (feeds : List (List Byte)) : List Byte := if d.strm then feeds.headD [] else []

/-- The bytes of streamed operand B. -/
def feedB (d : MDesc) (feeds : List (List Byte)) : List Byte := if d.strm then feeds.getLastD [] else []

/-- An MMA or MMAS takes its streamed operands and makes the checks that need scratchpad bytes: the state afterwards and the bytes
taken; otherwise how it ends (R134, R178, R226, R358, R403). -/
def State.mmaTake (s : State) (r : SRef) (o : Op) (da db : W64) (sa sb : Option W64) (fa fb : BitVec 4) :
    Except EngEnd (State × List (List Byte)) :=
  let a := MDesc.ofWord da
  match State.takeAll r (feedNeeds o) s with
  | (_, none, .wait) => .error .wait
  | (_, none, .gone) => .error (.done s 0)
  | (_, none, _) => .error (.done s 7)
  | (s', some feeds, _) =>
    let st := s.stream r
    if !engInSets st 1 (positionReads a fa) then .error (.trap 9 1)
    else if s.sparseBad r a fa (feedA a feeds) then .error (.done s 5)
    else if !engInSets st 1 (operandReads a fa sa ++ operandReads (MDesc.ofWord db) fb sb) then .error (.trap 9 1)
    else .ok (s', feeds)

/-- The operands of an MMA or MMAS, once the bytes of the streamed ones are known. -/
def State.mmaVecs (s : State) (r : SRef) (da db : W64) (sa sb : Option W64) (fa fb : BitVec 4) (feeds : List (List Byte)) :
    List Vec × List Vec :=
  let a := MDesc.ofWord da
  let b := MDesc.ofWord db
  (s.operand r a fa sa (feedA a feeds), s.operand r b fb sb (feedB b feeds))

/-- The operands of an MMA or MMAS, and the state once its streamed operands are taken; otherwise how it ends. An operation that has put
terms into its tile has been checked (R129, R403): it ends with no error any more. -/
def State.mmaOperands (s : State) (r : SRef) (o : Op) (da db : W64) (sa sb : Option W64) (fa fb : BitVec 4) :
    Except EngEnd (State × List Vec × List Vec) :=
  match o.taken with
  | some feeds => .ok (s, s.mmaVecs r da db sa sb fa fb feeds)
  | none =>
    match s.mmaTake r o da db sa sb fa fb with
    | .error e => .error e
    | .ok (s', feeds) => .ok (s', s.mmaVecs r da db sa sb fa fb feeds)

/-- Terms are those of blocks when an operand is block-scaled (R45). -/
def mmaBlocked (sa sb : Option W64) (fa fb : BitVec 4) : Bool := fa == 1 || fb == 1 || sa.isSome || sb.isSome

/-- MMA and MMAS run (R137, R226, R358): every term that has not entered yet enters. -/
def State.mmaRun (s : State) (r : SRef) (o : Op) (z : Nat) (da db : W64) (sa sb : Option W64) (fa fb : BitVec 4) : EngEnd :=
  match s.mmaOperands r o da db sa sb fa fb with
  | .error e => e
  | .ok (s', va, vb) => .done (s'.updTile r z (mmaTile (mmaBlocked sa sb fa fb) va vb fun n => !o.entered.contains n)) 0

/-! ### MZERO, MANCH, MDRAIN -/

/-- The tile after an MZERO (R138, R352). -/
def mzeroTile (d : W64) (t : Tile) : Tile :=
  { t with z := [], anchor := fld d 0 10, tstat := 0, late := [] }

/-- The tile after an MANCH (R48, R138, R352). -/
def manchTile (d : W64) (t : Tile) : Tile :=
  let a : BitVec 10 := fld d 0 10
  { t.withElems (t.elems.map fun e => reAnchor e t.anc a.toInt) with anchor := a }

/-- The fields of a drain descriptor (R139): OADDR, OSTRIDE. -/
def drainFields (d : W64) : Nat × Nat := ((fld d 0 25).toNat, (fld d 28 16).toNat)

/-- Status 2 of MDRAIN (R139). -/
def mdrainCheck (d : W64) (f : Fmt) : Nat :=
  let p := drainFields d
  if p.1 % f.size ≠ 0 ∨ p.2 < 128 * f.size ∨ !inSpad p.1 (127 * p.2 + 128 * f.size) then 2 else 0

/-- TSTAT after a drain (R140). -/
def tstatWord (t : Tile) (flags : Byte) : W64 :=
  BitVec.ofNat 64 (t.anchor.toNat * 2 ^ 16 + flags.toNat)

/-- The cycle in which a drain of stream `w` completes that finishes now (R127, R142): the first in which the stream's WAIT for it
can issue, the current one while the stream has its turn in it still to come. -/
def Core.drainCycle (c : Core) (w : Strm) : Nat := c.cycle.toNat + if c.half.any fun h => h.first != w then 0 else 1

/-- MDRAIN runs (R139, R140, R354): TSTAT is readable 4 cycles after the drain completes. -/
def State.mdrainRun (s : State) (r : SRef) (z : Nat) (d : W64) (f : Fmt) : EngEnd :=
  let (oa, os) := drainFields d
  if !engInSets (s.stream r) 1 ((List.range 128).map fun i => (oa + i * os, 128 * f.size, true)) then .trap 9 1
  else
    let c := s.core r.core
    let t := c.tiles.get z {}
    let out := t.elems.map fun e => drain e t.anc f
    let rows := (List.range 128).map fun i =>
      (oa + i * os, ((out.drop (128 * i)).take 128).flatMap fun x => leBytes f.size x.bits)
    let flags := out.foldl (fun a x => a ||| x.flags) 0
    let now := c.drainCycle r.strm
    match s.engWrite r rows 0 with
    | .done s' _ => .done (s'.updCore r.core fun c =>
        let t := c.tiles.get z {}
        coreWriteStat c r.strm z { t with
          tstat := tstatWord t flags, late := (now + 4, t.tstat) :: t.late.filter fun p => decide (c.cycle.toNat < p.1) }) 0
    | e => e

end Sys2Proof.Machine
end

