-- ==== Sys2Proof/Machine/Sbp.lean ====
section
/-! DEFINITION. What the operations of vP compute: fan blocks, scans, summation by parts, the Crowsnest and the Telltale
(R41, R144 to R159, R364 to R366, R369, R370, R397, R403). -/
namespace Sys2Proof.Machine

/-! ### Descriptors -/

/-- ADDR of a P descriptor (R148). -/
def pAddr (d : W64) : Nat := (fld d 0 25).toNat

/-- SLOT of a P descriptor (R148). -/
def pSlot (d : W64) : Nat := (fld d 49 3).toNat

/-- The scans of a PDOT: NTM + 1 (R148). -/
def pScans (d : W64) : Nat := (fld d 52 4).toNat + 1

/-- The rows of a decoded fan block. -/
def Fan.rows (f : Fan) : Nat := f.base.length

/-- The code that a fan slot gives an operation that reads it (R147). -/
def FanSlot.code : FanSlot → Nat
  | .empty => 2
  | .valid _ => 0
  | .bad c => c

/-! ### PGRP -/

/-- One difference row (R41, R145): the differences at 0 to 30, `none` at an escape code; `w` bits a code. -/
def diffRow (w : Nat) (bs : List Byte) : List (Option Int) :=
  (List.range 31).map fun k =>
    let c := leNat bs / 2 ^ (w * k) % 2 ^ w
    if c = 2 ^ (w - 1) then none else some (if c < 2 ^ (w - 1) then (c : Int) else (c : Int) - 2 ^ w)

/-- The positions of the escape codes of a row. -/
def escapes (row : List (Option Int)) : List Nat := (List.range 31).filter fun k => (row.getD k (some 0)).isNone

/-- The escape list of one row is valid (R41): one entry for each escape code, in ascending order, Reserved zero. -/
def escapeOk (row : List (Option Int)) (l : List W16) : Bool :=
  l.map (fun e => (fld e 0 5).toNat) == escapes row && l.all fun e => fld e 5 2 == 0

/-- A row with its escapes resolved: the entries taken in order. -/
def resolve : List (Option Int) → List W16 → List Int
  | [], _ => []
  | some x :: t, l => x :: resolve t l
  | none :: t, [] => 0 :: resolve t []
  | none :: t, e :: l => (fld e 7 9).toInt :: resolve t l

/-- Split the escape entries among the rows (R145). -/
def splitEscapes : List (List (Option Int)) → List W16 → List (List W16)
  | [], _ => []
  | row :: t, l =>
    let n := (escapes row).length
    l.take n :: splitEscapes t (l.drop n)

/-- What PGRP makes of the fan block at `a` (R145, R146, R149), and the bytes that it reads. -/
def readFan (rd : Nat → Nat → List Byte) (a : Nat) : FanSlot × List EngAcc :=
  if a % 8 ≠ 0 ∨ !inSpad a 40 then (.bad 2, [])
  else
    let h : W64 := BitVec.ofNat 64 (leNat (rd a 8))
    let df : BitVec 4 := fld h 8 4
    let nr := (fld h 0 3).toNat + 1
    let head : EngAcc := (a, 40, false)
    if df ≠ 9 ∧ df ≠ 10 then (.bad 2, [head])
    else
      let w := if df = 9 then 4 else 3
      let rb := 4 * w
      if !inSpad a (40 + rb * nr) then (.bad 2, [head])
      else
        let rows := (List.range nr).map fun r => diffRow w (rd (a + 40 + rb * r) rb)
        let ne := (rows.map fun x => (escapes x).length).sum
        let ea := a + 40 + rb * nr
        let body : EngAcc := (a + 40, rb * nr, false)
        if !inSpad a (40 + rb * nr + 2 * ne) then (.bad 2, [head, body])
        else
          let ents := (List.range ne).map fun i => BitVec.ofNat 16 (leNat (rd (ea + 2 * i) 2))
          let lists := splitEscapes rows ents
          let acc : List EngAcc := [head, body, (ea, 2 * ne, false)]
          if !(List.zipWith escapeOk rows lists).all id then (.bad 6, acc)
          else
            let p := leNat (rd (a + 8) 20)
            (.valid { perm := (List.range 32).map fun k => p / 2 ^ (5 * k) % 32
                      scale := BitVec.ofNat 24 (leNat (rd (a + 28) 3)), df
                      base := rd (a + 32) nr
                      diff := List.zipWith resolve rows lists }, acc)

/-- PGRP runs (R149, R366): the slot receives the block, or its code. -/
def State.pgrpRun (s : State) (r : SRef) (d : W64) : EngEnd :=
  let (f, acc) := readFan (s.engRead r) (pAddr d)
  if !engInSets (s.stream r) 2 acc then .trap 9 2
  else .done (s.updRegs r fun g => { g with fans := g.fans.set (pSlot d) f .empty }) f.code

/-! ### PSCAN -/

/-- The unit U of an activation format (R150), as an exponent of 2. -/
def pxUnit (px : BitVec 4) : Option Int :=
  match px.toNat with
  | 0 => some 0 | 2 => some (-9) | 3 => some (-16) | 5 => some (-24)
  | _ => none

/-- A value as a whole number of units 2^u; 0 for a value that is not finite. -/
def unitsOf (x : Num) (u : Int) : Int :=
  match x with
  | .fin n m e => signedAt n m e u
  | _ => 0

/-- CLASS of R151. -/
def classOf : Num → Nat
  | .inf false => 1
  | .inf true => 2
  | .nan => 3
  | .zero true => 4
  | _ => 0

/-- The elements of an activation vector (R31). -/
def State.acts (s : State) (r : SRef) (px : BitVec 4) (a k : Nat) : List Num :=
  let f := (Fmt.ofCode px).getD .int8
  denseVals f k (s.engRead r a (k * f.size))

/-- The checks of PSCAN in the order of R369; `fan` is the slot at binding. -/
def pscanCheck (d : W64) (px : BitVec 4) (fan : FanSlot) : Nat :=
  let w := fmtSize px
  if (pxUnit px).isNone ∨ pAddr d % w ≠ 0 ∨ !inSpad (pAddr d) (32 * w) then 2 else fan.code

/-- The lanes of a scan from lane `k` on (R152), with the running sum `sum`. -/
def scanFrom (px : BitVec 4) (u : Int) : List Num → Int → List (BitVec 128)
  | [], _ => []
  | e :: t, sum =>
    let c := classOf e
    let sum := if c = 0 then sum + unitsOf e u else sum
    BitVec.ofNat 128 (c * 2 ^ 124 + px.toNat * 2 ^ 120 + (wrap 120 sum).toNat) :: scanFrom px u t sum

/-- The 32 lanes that PSCAN writes (R152). -/
def scanOf (px : BitVec 4) (fan : Fan) (x : List Num) : QReg :=
  ofElems 4096 128 (scanFrom px ((pxUnit px).getD 0) (fan.perm.map fun i => x.getD i (.zero false)) 0)

/-- PSCAN runs (R152, R369); its set check takes all 32 activations as read, also those that PERM omits (log 8). A before-image beyond 64 KiB is a fatal context fault (R88). -/
def State.pscanRun (s : State) (r : SRef) (q : Nat) (d : W64) (px : BitVec 4) (fan : FanSlot) : EngEnd :=
  match fan with
  | .valid f =>
    let st := s.stream r
    if !engInSets st 2 [(pAddr d, 32 * fmtSize px, false)] then .trap 9 2
    else
      let st := streamWriteQ st q (scanOf px f (s.acts r px (pAddr d) 32))
      if 65536 < 1024 * st.beforeV.length + 512 * st.beforeQ.length then .trap 13 1
      else .done (s.setStream r st) 0
  | _ => .done s fan.code

/-! ### PDOT -/

/-- Lane `k` of a scan. -/
def qLane (q : QReg) (k : Nat) : BitVec 128 := elem q k 128

/-- CLASS, FMT and SUM of a lane (R151). -/
def laneClass (l : BitVec 128) : Nat := (fld l 124 4).toNat
/-- FMT of a lane. -/
def laneFmt (l : BitVec 128) : BitVec 4 := fld l 120 4
/-- SUM of a lane, signed. -/
def laneSum (l : BitVec 128) : Int := (fld l 0 120).toInt

/-- A scan that PDOT accepts (R153, R397): one format, accepted, and no CLASS from 5. -/
def scanOk (q : QReg) : Bool :=
  let f := laneFmt (qLane q 0)
  (pxUnit f).isSome && (List.range 32).all fun k => laneFmt (qLane q k) == f && decide (laneClass (qLane q k) < 5)

/-- The checks of PDOT in the order of R153; `qs` and `fan` are what it read at binding. -/
def pdotCheck (q : Nat) (d : W64) (qs : List QReg) (fan : FanSlot) : Nat :=
  let nt := pScans d
  if 15 < q + nt - 1 ∨ 128 < (fld d 35 7).toNat + nt then 2
  else if !(qs.all scanOk) then 2
  else match fan with
    | .valid f => if 128 < (fld d 42 7).toNat + f.rows then 2 else 0
    | x => x.code

/-- S(k) − S(k − 1) of a scan, in units of its format. -/
def laneStep (q : QReg) (k : Nat) : Int := laneSum (qLane q k) - (if k = 0 then 0 else laneSum (qLane q (k - 1)))

/-- The value of `x` units of a scan's format. -/
def scanNum (q : QReg) (x : Int) : Num :=
  if x = 0 then .zero false else .fin (x < 0) x.natAbs ((pxUnit (laneFmt (qLane q 0))).getD 0)

/-- The permuted activations that a scan stands for, as their CLASS says (R151, R153). -/
def laneVals (q : QReg) : List Num :=
  (List.range 32).map fun k =>
    match laneClass (qLane q k) with
    | 1 => .inf false
    | 2 => .inf true
    | 3 => .nan
    | 4 => .zero true
    | _ => scanNum q (laneStep q k)

/-- The weights of a row (R144): w(k) = b − Σ[j ≥ k] d(j), from the last position back. -/
def weightsOf (b : Int) (d : List Int) : List Int :=
  (d.foldr (fun x l => (l.headD 0 - x) :: l) [b])

/-- The exact term of a fan row and a scan (R153): SCALE × Unit × v, where v is formed from the SUM of every lane whatever its CLASS. -/
def pdotExact (x : Num) (w : List Int) (q : QReg) : Num :=
  (scanNum q ((List.zipWith (fun w k => w * laneStep q k) w (List.range 32)).foldl (· + ·) 0)).scaleBy [x]

/-- The term of a fan row and a scan (R153): exact when every lane has CLASS 0 and SCALE is finite; otherwise what R47 assigns to the scaled sum
of the products when that is NaN, infinite or −0, and the exact term when it is none of these. -/
def pdotTerm (scale : BitVec 24) (w : List Int) (q : QReg) : Num :=
  let x := Num.decode .s24 scale.toNat
  let t := (Num.sum (List.zipWith (fun w y => Num.mul (Num.ofInt w) y) w (laneVals q))).scaleBy [x]
  if x.finite && (List.range 32).all fun k => laneClass (qLane q k) == 0 then pdotExact x w q
  else match t with
    | .nan | .inf _ | .zero true => t
    | _ => pdotExact x w q

/-- Term (r, t) of a PDOT has the number 16 r + t. -/
def pdotTermNo (r t : Nat) : Nat := 16 * r + t

/-- The tile once those terms of a PDOT that `keep` names have entered (R153, R161). -/
def pdotTile (row col : Nat) (f : Fan) (qs : List QReg) (keep : Nat → Bool) (t : Tile) : Tile :=
  let ws := (List.range f.rows).map fun r => weightsOf (f.base.getD r 0).toInt (f.diff.getD r [])
  let put (z : SMap Acc) (p : Nat × Nat) : SMap Acc :=
    let i := 128 * (row + p.1) + col + p.2
    z.set i (accTerm (z.get i {}) (pdotTerm f.scale (ws.getD p.1 []) (qs.getD p.2 0)) false t.anc) {}
  { t with z := (((List.range qs.length).flatMap fun n => (List.range f.rows).map fun r => (r, n)).filter
      fun p => keep (pdotTermNo p.1 p.2)).foldl put t.z }

/-- Terms of a PDOT enter its tile (R153, R161, R365). -/
def State.pdotEnter (s : State) (r : SRef) (z : Nat) (d : W64) (f : Fan) (qs : List QReg) (keep : Nat → Bool) : State :=
  s.updTile r z (pdotTile (fld d 42 7).toNat (fld d 35 7).toNat f qs keep)

/-- PDOT runs (R153, R365): every term that has not entered yet enters. -/
def State.pdotRun (s : State) (r : SRef) (o : Op) (z : Nat) (d : W64) : EngEnd :=
  match o.fan with
  | .valid f => .done (s.pdotEnter r z d f o.qs fun n => !o.entered.contains n) 0
  | _ => .done s o.fan.code

/-! ### PSCORE and PCHECK -/

/-- A field of a parameter block (R154). -/
def pbField (b : List Byte) (off n : Nat) : Nat := leNat ((b.drop off).take n)

/-- An address field of a parameter block: bits [24:0]. -/
def pbAddr (b : List Byte) (off : Nat) : Nat := pbField b off 4 % 2 ^ 25

/-- A binary32 field of a parameter block. -/
def pbF32 (b : List Byte) (off : Nat) : Num := Num.decode .fp32 (pbField b off 4)

/-- The reserved values of R159 that the parameter block shows; `chk` for PCHECK. A SADDR that is no multiple of 8 is none of them: its rows
are read as they lie; PCHECK's extent counts all N rows; and RMAX, which R159 lists for both and R154 lets PSCORE not read, is tested for PCHECK
alone (log 55). -/
def paramsBad (b : List Byte) (px : BitVec 4) (chk : Bool) : Bool :=
  let k := pbField b 4 2
  let rk := pbField b 6 1
  let n := pbField b 20 2
  let lmax := pbField b 22 2
  let ss := pbField b 44 4
  let rmax := pbField b 60 2
  let rec8 := 8 + 8 * ((k + 7) / 8)
  (pxUnit px).isNone || k == 0 || decide (4096 < k) || rk == 0 || decide (64 < rk) || n == 0 || decide (32768 < n) ||
  lmax == 0 || decide (32768 < lmax) || decide (pbField b 12 4 < k) ||
  pbAddr b 24 % 2 != 0 || pbAddr b 28 % 4 != 0 ||
  !inSpad (pbAddr b 0) (k * fmtSize px) || !inSpad (pbAddr b 24) (2 * lmax) || !inSpad (pbAddr b 28) 4 ||
  (if chk then
    rmax == 0 || decide (32768 < rmax) || ss % 8 != 0 || decide (ss < rec8) || pbF32 b 48 == .nan ||
    pbAddr b 52 % 2 != 0 || pbAddr b 56 % 4 != 0 ||
    !inSpad (pbAddr b 40) ((n - 1) * ss + rec8) || !inSpad (pbAddr b 52) (2 * rmax) || !inSpad (pbAddr b 56) 4
   else
    pbF32 b 32 == .nan ||
    !inSpad (pbAddr b 8) ((rk - 1) * pbField b 12 4 + k) || !inSpad (pbAddr b 16) (n * rk))

/-- The list and the count word that PSCORE and PCHECK write (R156). -/
def listWrites (l : List Nat) (la ca cap : Nat) : List (Nat × List Byte) :=
  [(la, (l.take cap).flatMap fun x => leBytes 2 x),
   (ca, leBytes 4 (l.length % 2 ^ 16 + if cap < l.length then 2 ^ 31 else 0))]

/-- The writes as accesses. -/
def writeAccs (l : List (Nat × List Byte)) : List EngAcc := l.map fun p => (p.1, p.2.length, true)

/-- Whether a value is NaN or infinite. -/
def isSpecial : Num → Bool
  | .nan | .inf _ => true
  | _ => false

/-- The selected neurons (R155, R370). -/
def State.selected (s : State) (r : SRef) (b : List Byte) (px : BitVec 4) : List Nat :=
  let u := (pxUnit px).getD 0
  let k := pbField b 4 2
  let rk := pbField b 6 1
  let xs := s.acts r px (pbAddr b 0) k
  let us := Num.decode .s24 (pbField b 36 3)
  let th := pbF32 b 32
  let all := List.range (pbField b 20 2)
  if xs.any isSpecial || isSpecial us then all
  else
    let xu := xs.map fun x => unitsOf x u
    let dot (ys : List Byte) (x : List Int) : Int := (List.zipWith (fun (c : Byte) v => c.toInt * v) ys x).sum
    let zc := (List.range rk).map fun j => dot (s.engRead r (pbAddr b 8 + j * pbField b 12 4) k) xu
    all.filter fun n =>
      let v := dot (s.engRead r (pbAddr b 16 + n * rk) rk) zc
      let score := Num.mul us (if v = 0 then .zero false else .fin (v < 0) v.natAbs u)
      Num.cmp score th != .lt

/-- PSCORE runs (R155, R159, R370). -/
def State.pscoreRun (s : State) (r : SRef) (d : W64) (px : BitVec 4) : EngEnd :=
  let a := pAddr d
  let st := s.stream r
  if a % 64 ≠ 0 ∨ !inSpad a 64 then .done s 2
  else if !engInSets st 2 [(a, 40, false)] then .trap 9 2
  else
    let b := s.engRead r a 40
    if paramsBad b px false then .done s 2
    else
      let k := pbField b 4 2
      let rk := pbField b 6 1
      let ws := listWrites (s.selected r b px) (pbAddr b 24) (pbAddr b 28) (pbField b 22 2)
      let acc : List EngAcc := [(pbAddr b 0, k * fmtSize px, false)] ++
        (List.range rk).map (fun j => (pbAddr b 8 + j * pbField b 12 4, k, false)) ++
        [(pbAddr b 16, pbField b 20 2 * rk, false)] ++ writeAccs ws
      if !engInSets st 2 acc then .trap 9 2 else s.engWrite r ws 0

/-- Whether a list is strictly ascending. -/
def ascending : List Nat → Bool
  | a :: b :: t => decide (a < b) && ascending (b :: t)
  | _ => true

/-- The approximation of a shadow row (R157, R158, R364): the exact sum of its scaled block sums. -/
def shadowSum (row : List Byte) (xs : List Num) (k : Nat) : Num :=
  let bl := o4Blocks (row.drop 8) k
  Num.sum ((List.range bl.length).map fun j =>
    let o := bl.getD j default
    (Num.sum (List.zipWith Num.mul o.vals (xs.drop (8 * j)))).scaleBy [o.scale])

/-- Whether PCHECK lists a row (R158). -/
def rowListed (row : List Byte) (xs : List Num) (k : Nat) (eps : Num) : Bool :=
  let e := Num.decode .fp32 (leNat (row.take 4))
  let a := shadowSum row xs k
  a == .nan || Num.cmp a eps == .gt || e == .nan || Num.cmp e (.zero false) == .lt

/-- PCHECK runs (R158, R159, R364). -/
def State.pcheckRun (s : State) (r : SRef) (d : W64) (px : BitVec 4) : EngEnd :=
  let a := pAddr d
  let st := s.stream r
  if a % 64 ≠ 0 ∨ !inSpad a 64 then .done s 2
  else if !engInSets st 2 [(a, 64, false)] then .trap 9 2
  else
    let b := s.engRead r a 64
    if paramsBad b px true then .done s 2
    else
      let k := pbField b 4 2
      let n := pbField b 20 2
      let la := pbAddr b 24
      let m := min (leNat (s.engRead r (pbAddr b 28) 4) % 2 ^ 16) (pbField b 22 2)
      if !engInSets st 2 [(pbAddr b 28, 4, false), (la, 2 * m, false)] then .trap 9 2
      else
        let sel := (List.range m).map fun i => leNat (s.engRead r (la + 2 * i) 2)
        if !ascending sel || sel.any (fun j => decide (n ≤ j)) then .done s 2
        else
          let xs := s.acts r px (pbAddr b 0) k
          let rec8 := 8 + 8 * ((k + 7) / 8)
          let rowAt (j : Nat) : Nat := pbAddr b 40 + j * pbField b 44 4
          let rows := (List.range n).filter fun j => !sel.contains j
          let listed := rows.filter fun j => rowListed (s.engRead r (rowAt j) rec8) xs k (pbF32 b 48)
          let ws := listWrites listed (pbAddr b 52) (pbAddr b 56) (pbField b 60 2)
          let acc : List EngAcc := (pbAddr b 0, k * fmtSize px, false) ::
            rows.map (fun j => (rowAt j, rec8, false)) ++ writeAccs ws
          if !engInSets st 2 acc then .trap 9 2 else s.engWrite r ws 0

end Sys2Proof.Machine
end

