-- ==== Sys2Proof/Machine/VEngine.lean ====
section
/-! DEFINITION. The virtual engines vM and vP: readiness, binding, start, finish and retirement (R122 to R129, R141 to
R143, R160, R161, R181, R402, R403). -/
namespace Sys2Proof.Machine

/-- The queue of a virtual engine. -/
def Stream.eq (st : Stream) : Eng → List Op
  | .m => st.mq
  | .p => st.pq

/-- Replace the queue of a virtual engine. -/
def Stream.putEq (st : Stream) (e : Eng) (l : List Op) : Stream :=
  match e with
  | .m => { st with mq := l }
  | .p => { st with pq := l }

/-- Replace an operation of a virtual engine. -/
def State.setEOp (s : State) (r : SRef) (e : Eng) (o : Op) : State :=
  s.updStream r fun st => st.putEq e ((st.eq e).map fun x => if x.id = o.id then o else x)

/-! ### Readiness -/

/-- The tile of an operation. -/
def OpBody.tile : OpBody → Option Nat
  | .mma z .. | .manch z _ | .mzero z _ | .mdrain z .. | .pdot z .. => some z
  | _ => none

/-- MZERO, MANCH and MDRAIN (R123). -/
def OpBody.whole : OpBody → Bool
  | .manch .. | .mzero .. | .mdrain .. => true
  | _ => false

/-- The operations that modify their tile (R83, R143, R162). -/
def OpBody.modifies : OpBody → Bool
  | .mma .. | .manch .. | .mzero .. | .pdot .. => true
  | _ => false

/-- The q registers that a vP operation reads and writes (R160). -/
def OpBody.qUse : OpBody → List Nat
  | .pscan q .. => [q]
  | .pdot _ q d => (List.range (pScans d)).map (q + ·)
  | _ => []

/-- The fan slot that a vP operation reads or writes (R160). -/
def OpBody.fanUse : OpBody → Option Nat
  | .pgrp d | .pscan _ d _ | .pdot _ _ d => some (pSlot d)
  | _ => none

/-- An earlier vP operation writes a fan slot or a q register that a later one uses (R160). -/
def feedsP (e o : OpBody) : Bool :=
  match e with
  | .pgrp d => o.fanUse == some (pSlot d)
  | .pscan q .. => o.qUse.contains q
  | _ => false

/-- Whether operation `o` of engine `e` is ready (R123, R160, R181); the oldest unbound one is chosen elsewhere. -/
def engReady (st : Stream) (e : Eng) (o : Op) : Bool :=
  let before (l : List Op) : List Op := l.filter fun x => decide (x.id < o.id)
  let same (x : Op) : Bool := x.body.tile == o.body.tile
  tokensSet st o &&
  (!o.body.whole || (before st.mq).all fun x => !same x) &&
  (e == .m || (before st.pq).all fun x => !feedsP x.body o.body) &&
  (!st.det || o.body.tile.isNone ||
    (if o.body.whole then (before (st.mq ++ st.pq)).all fun x => !same x
     else (before st.mq).all fun x => !(x.body.whole && same x)))

/-- The oldest operation of a stream that is not yet bound (R123). -/
def oldest (l : List Op) : Option Op := l.find? fun o => o.stage == .queued

/-- R402: ready operations that consumed an error finish unbound, one after another. -/
def State.passBad (r : SRef) (e : Eng) : Nat → State → State
  | 0, s => s
  | n + 1, s =>
    let st := s.stream r
    match oldest (st.eq e) with
    | some o =>
      if engReady st e o && tokensBad st o then
        State.passBad r e n ((s.setEOp r e { o with stage := .passed, status := 7 }).dropFeeds r o 7)
      else s
    | none => s

/-- The ready operation of a stream on an engine (R123). -/
def readyOp (st : Stream) (e : Eng) : Option Op :=
  match oldest (st.eq e) with
  | some o => if engReady st e o && !tokensBad st o then some o else none
  | none => none

/-! ### Binding -/

/-- Whether a stream has an operation on a place of the engine: the unit, or the substitute (R123, R125). -/
def holds (st : Stream) (e : Eng) (sub : Bool) : Bool :=
  (st.eq e).any fun o => (o.stage == .bound || o.stage == .started) && o.sub == sub

/-- Whether a place of the engine is free (R142). -/
def placeFree (c : Core) (e : Eng) (sub : Bool) : Bool := !holds c.main e sub && !holds c.miz e sub

/-- The rank of a stream's owner (R122). -/
def State.rankOf (s : State) (r : SRef) : BitVec 3 := (s.ctx (s.stream r).owner).rank

/-- Stream `o` of a core outranks stream `t` (R122). -/
def State.outranks (s : State) (core : Nat) (o t : Strm) : Bool :=
  let a := s.rankOf ⟨core, o⟩
  let b := s.rankOf ⟨core, t⟩
  decide (b < a) || (a == b && o == .main)

/-- The checks made in the cycle of binding (R403), on what the operation reads at binding. -/
def bindCheck (st : Stream) (o : Op) : Nat :=
  match o.body with
  | .mma _ da db sa sb fa fb => mmaCheck st o da db sa sb fa fb
  | .mdrain _ d mo => match Fmt.ofCode mo with
    | some f => mdrainCheck d f
    | none => 2
  | .pscan _ d px => pscanCheck d px o.fan
  | .pdot _ q d => pdotCheck q d o.qs o.fan
  | _ => 0

/-- The fan slot and the q registers as they stand at binding (R160, R403). -/
def capture (st : Stream) (o : Op) : Op :=
  match o.body with
  | .pscan _ d _ => { o with fan := st.regs.fans.get (pSlot d) .empty }
  | .pdot _ q d => { o with
      fan := st.regs.fans.get (pSlot d) .empty
      qs := ((List.range (pScans d)).filter fun t => decide (q + t < 16)).map fun t => st.q.get (q + t) 0 }
  | _ => o

/-- Bind (R123, R128, R143, R403): the operation takes its place. A failed check ends it there, with no tile image; the
first modification of a tile after a checkpoint takes the image and waits to start; any other operation starts. -/
def State.bindOp (s : State) (r : SRef) (e : Eng) (sub : Bool) (o : Op) : State :=
  let st := s.stream r
  let o := capture st o
  let code := bindCheck st o
  let c := s.core r.core
  let o := { o with sub, rank := s.rankOf r, bcyc := fld c.cycle 0 24, status := code }
  if code ≠ 0 then (s.setEOp r e { o with stage := .started }).dropFeeds r o code
  else match o.body.tile with
    | some z =>
      if o.body.modifies && !(st.tileImgs.any fun p => p.1 == z) then
        (s.setEOp r e { o with stage := .bound }).updStream r fun st => saveTile st z (c.tiles.get z {})
      else s.setEOp r e { o with stage := .started }
    | none => s.setEOp r e { o with stage := .started }

/-- Demotion (R123, R124): the ready operation of stream `w` goes to the substitute when the other stream contends for the
unit and outranks it. `h` tells whether the other stream still has a ready operation. -/
def State.demote (s : State) (core : Nat) (e : Eng) (w : Strm) (mine other : Option Op) : State :=
  match mine with
  | none => s
  | some o =>
    let c := s.core core
    if s.outranks core w.other w && (holds (streamOf c w.other) e false || other.isSome) && placeFree c e true
    then s.bindOp ⟨core, w⟩ e true o
    else s

/-- An operation of a core waits to retire: its token counts as set in this cycle's readiness test (R142). -/
def Core.retireDue (c : Core) : Bool :=
  [c.main, c.miz].any fun st => [st.mq, st.pq, st.xq].any fun l =>
    (l.head?.map fun o => o.stage == .finished || o.stage == .passed).getD false

/-- A stream of a core has begun a cycle in which the other may still issue: BindCycle considers what both issue in it (R120, R123). -/
def State.cycleOpen (s : State) (core : Nat) : Bool :=
  match (s.core core).half with
  | none => false
  | some h =>
    let r : SRef := ⟨core, h.first.other⟩
    !h.stall && ((s.stream r).memberDue || canIssue s r)

/-- The operations of a core that R402 lets pass on an engine finish. -/
def State.passCycle (s : State) (core : Nat) (e : Eng) : State :=
  State.passBad ⟨core, .miz⟩ e 8 (State.passBad ⟨core, .main⟩ e 8 s)

/-- One BindCycle of an engine (R123). -/
def State.bindCycle (s : State) (core : Nat) (e : Eng) : State :=
  let c := s.core core
  let a := readyOp c.main e
  let b := readyOp c.miz e
  let mainFirst := a.isSome && (b.isNone || s.outranks core .main .miz)
  let (s, a, b) :=
    if placeFree c e false then
      if mainFirst then (match a with | some o => s.bindOp ⟨core, .main⟩ e false o | none => s, none, b)
      else (match b with | some o => s.bindOp ⟨core, .miz⟩ e false o | none => s, a, none)
    else (s, a, b)
  let t := s.demote core e .main a b
  let a := if holds (t.core core).main e true && !holds (s.core core).main e true then none else a
  t.demote core e .miz b a

/-- ENGINE_BIND (R123, R142): the BindCycle of a cycle comes after what both streams issue in it and after the retirements of that cycle, those of
the operations that R402 lets pass in it, on either engine, among them. -/
def execEngineBind (core : Nat) (e : Eng) (s : State) : Host.Outcome State Fault Refusal :=
  if core < numCores then
    let t := (s.passCycle core .m).passCycle core .p
    .next (if (s.core core).retireDue || s.cycleOpen core then s else if (t.core core).retireDue then t else t.bindCycle core e)
  else .fault .noSuchCore

/-! ### Start, finish, retirement -/

/-- The operation at a place of an engine in a given stage. -/
def State.atPlace (s : State) (core : Nat) (e : Eng) (sub : Bool) (g : Stage) : Option (SRef × Op) :=
  let pick (w : Strm) : Option (SRef × Op) :=
    (((streamOf (s.core core) w).eq e).find? fun o => o.stage == g && o.sub == sub).map fun o => (⟨core, w⟩, o)
  match pick .main with
  | some x => some x
  | none => pick .miz

/-- ENGINE_START (R143): the delay of the tile image is over. -/
def execEngineStart (core : Nat) (e : Eng) (sub : Bool) (s : State) : Host.Outcome State Fault Refusal :=
  if core < numCores then
    match s.atPlace core e sub .bound with
    | some (r, o) => .next (s.setEOp r e { o with stage := .started })
    | none => .next s
  else .fault .noSuchCore

/-- What an operation does (R137 to R140, R149, R152, R153, R155, R158); `o.status` is the code of its binding. -/
def State.engRun (s : State) (r : SRef) (o : Op) : EngEnd :=
  match o.body with
  | .mma z da db sa sb fa fb => s.mmaRun r o z da db sa sb fa fb
  | .mzero z d => .done (s.updTile r z (mzeroTile d)) 0
  | .manch z d => .done (s.updTile r z (manchTile d)) 0
  | .mdrain z d mo => s.mdrainRun r z d ((Fmt.ofCode mo).getD .fp32)
  | .pgrp d => s.pgrpRun r d
  | .pscan q d px => s.pscanRun r q d px o.fan
  | .pdot z _ d => s.pdotRun r o z d
  | .pscore d px => s.pscoreRun r d px
  | .pcheck d px => s.pcheckRun r d px
  | _ => .done s 0

/-- An MMA or MMAS whose terms begin to enter takes its streamed operands and ends its checks (R403); none when it will end with a status
or a trap, or waits for a streamed operand. -/
def State.mmaBegin (s : State) (r : SRef) (o : Op) (da db : W64) (sa sb : Option W64) (fa fb : BitVec 4) : Option (State × List (List Byte)) :=
  match o.taken with
  | some feeds => some (s, feeds)
  | none => match s.mmaTake r o da db sa sb fa fb with
    | .ok x => some x
    | .error _ => none

/-- Terms of a started MMA, MMAS or PDOT that have not entered yet enter its tile before its finish (R141, R161). An operation that
will end with a status or a trap, or that waits for a streamed operand, enters none. -/
def State.enterTerms (s : State) (r : SRef) (e : Eng) (o : Op) (sel : List Nat) : State :=
  let keep (n : Nat) : Bool := sel.contains n && !o.entered.contains n
  let s' := match o.body with
    | .mma z da db sa sb fa fb => match s.mmaBegin r o da db sa sb fa fb with
      | some (t, feeds) =>
        let v := s.mmaVecs r da db sa sb fa fb feeds
        some (t.updTile r z (mmaTile (mmaBlocked sa sb fa fb) v.1 v.2 keep), { o with taken := some feeds })
      | none => none
    | .pdot z _ d => match o.fan with
      | .valid f => some (s.pdotEnter r z d f o.qs keep, o)
      | _ => none
    | _ => none
  match s' with
  | some (t, o) => if o.status = 0 then t.setEOp r e { o with entered := sel ++ o.entered } else s
  | none => s

/-- The terms `sel` of the operation started at a place of a virtual engine enter now. -/
def termsTurn (s : State) (core : Nat) (e : Eng) (sub : Bool) (sel : List Nat) : Host.Outcome State Fault Refusal :=
  if core < numCores then
    match s.atPlace core e sub .started with
    | some (r, o) => .next (s.enterTerms r e o sel)
    | none => .next s
  else .fault .noSuchCore

/-- A trap cause that an engine operation raises (R86, R88, R178): it is reported at the bundle that issued it. -/
def State.engTrap (s : State) (r : SRef) (o : Op) (cause : Nat) (detail : BitVec 29) : State :=
  s.updStream r fun st => { st with traps := st.traps ++
    [⟨cause, detail, o.pc, o.bundle, BitVec.ofNat 3 ((st.launch.map (·.gpos)).getD 0)⟩] }

/-- An operation finishes (R127, R178, R403): it gives up its place; only its retirement waits. -/
def State.finishOp (s : State) (r : SRef) (e : Eng) (o : Op) : State :=
  if o.status ≠ 0 then s.setEOp r e { o with stage := .finished }
  else match s.engRun r o with
    | .wait => s
    | .done s code =>
      let s := s.setEOp r e { o with stage := .finished, status := code }
      if code = 0 then s else s.dropFeeds r o code
    | .trap c d => ((s.setEOp r e { o with stage := .finished }).dropFeeds r o 0).engTrap r o c d

/-- VIRTUAL_ENGINE_FINISH (R127). -/
def execVirtualEngineFinish (core : Nat) (e : Eng) (sub : Bool) (s : State) : Host.Outcome State Fault Refusal :=
  if core < numCores then
    match s.atPlace core e sub .started with
    | some (r, o) => .next (s.finishOp r e o)
    | none => .next s
  else .fault .noSuchCore

/-- A binding-log entry (R128). -/
def blogEntry (seq : Nat) (o : Op) (rank : BitVec 3) (bcyc : BitVec 24) : W64 :=
  BitVec.ofNat 64 (seq * 2 ^ 48 + o.tok.toNat * 2 ^ 42 + o.opc.toNat * 2 ^ 35 + (if o.sub then 2 ^ 33 else 0) +
    rank.toNat * 2 ^ 30 + o.status % 64 * 2 ^ 24 + bcyc.toNat)

/-- The TSTAT of a tile is readable at once: with DET = 1 an MDRAIN that retires with a status of 2 to 7 ends the stall of a STAT (R377). -/
def State.endStall (s : State) (r : SRef) (o : Op) : State :=
  match o.body with
  | .mdrain z .. =>
    if (s.stream r).det && decide (2 ≤ o.status) then
      s.updCore r.core fun c => { c with tiles := c.tiles.set z { c.tiles.get z {} with late := [] } {} }
    else s
  | _ => s

/-- An operation retires (R127, R128, R163): its token is set and its entry enters the binding log. -/
def State.retireOp (s : State) (r : SRef) (e : Eng) (o : Op) (rest : List Op) : State :=
  let passed := o.stage == .passed
  let s := s.endStall r o
  let rank := if passed then s.rankOf r else o.rank
  let bcyc := if passed then fld (s.core r.core).cycle 0 24 else o.bcyc
  s.updStream r fun st =>
    let st := setGen (st.putEq e rest) o.out o.status (if o.sub then 1 else 0)
    let y := st.sys
    match e with
    | .m =>
      let n := y.seqm % 65535 + 1
      { st with sys := { y with seqm := n, blogm := (blogEntry n o rank bcyc :: y.blogm).take 64 } }
    | .p =>
      let n := y.seqp % 65535 + 1
      { st with sys := { y with seqp := n, blogp := (blogEntry n o rank bcyc :: y.blogp).take 64 } }

/-- VIRTUAL_ENGINE_RETIRE (R127, R128): the oldest operation of a stream on an engine retires once it has finished. -/
def execVirtualEngineRetire (r : SRef) (e : Eng) (s : State) : Host.Outcome State Fault Refusal :=
  if r.core < numCores then
    match (s.stream r).eq e with
    | o :: rest => if o.stage == .finished || o.stage == .passed then .next (s.retireOp r e o rest) else .next s
    | [] => .next s
  else .fault .noSuchCore

end Sys2Proof.Machine
end

