-- ==== Sys2Proof/Machine/Transform.lean ====
section
/-! DEFINITION. The X slot's engine: parameter moves, the transform units CONV, PACK, TRAN and SUM, their results and
XGET (R243 to R249, R398 to R400). -/
namespace Sys2Proof.Machine

/-- The oldest X operation of a stream (R245): X operations run one at a time, in issue order. -/
def xHead (st : Stream) : Option Op := st.xq.head?

/-- A result register of PACK or SUM, named by its port (R244, R398). -/
def xResult (g : Regs) (port : BitVec 5) : W64 := if port = 8 then g.packRes else g.sumRes

/-- The destination port and the value of a move (R399); a result register is read when the move executes. -/
def xMove (g : Regs) : OpBody → Option (Nat × W64)
  | .xmove dp v => some (dp.toNat, v)
  | .xresult dp sp => some (dp.toNat, xResult g sp)
  | _ => none

/-- The unit and the mode of a trigger: a move into port 7 (R243). -/
def xTrigger (g : Regs) (b : OpBody) : Option (Nat × W64) :=
  match xMove g b with
  | some (p, v) => if p % 8 = 7 then some (p / 8, v) else none
  | none => none

/-- The parameter at a port of a unit (R243). -/
def xPar (g : Regs) (unit port : Nat) : W64 := g.xparam.get (8 * unit + port) 0

/-- An address parameter: bits [24:0] (R244). -/
def xAddr (g : Regs) (unit port : Nat) : Nat := (fld (xPar g unit port) 0 25).toNat

/-- Replace the oldest X operation. -/
def State.setXHead (s : State) (r : SRef) (o : Op) : State :=
  s.updStream r fun st => { st with xq := match st.xq with | [] => [] | _ :: t => o :: t }

/-- A triggered unit runs the oldest X operation, once its tokens are set (R245, R399): `f` gives its end and the word that
its result register receives. A consumed error is met at retirement. -/
def State.xRun (s : State) (r : SRef) (unit : Nat) (f : State → SRef → W64 → EngEnd × W32) : State :=
  let st := s.stream r
  match xHead st with
  | none => s
  | some o =>
    match xTrigger st.regs o.body with
    | some (u, mode) =>
      if u == unit && o.stage == .queued && tokensSet st o && !tokensBad st o then
        match f s r mode with
        | (.wait, _) => s
        | (.done s' code, w) => s'.setXHead r { o with stage := .finished, status := code, crc := w }
        | (.trap c d, w) => (s.setXHead r { o with stage := .finished, crc := w }).engTrap r o c d
      else s
    | none => s

/-! ### CONV -/

/-- The formats that CONV accepts (R246). -/
def convFmt (c : BitVec 4) : Option Fmt := if c = 8 then none else Fmt.ofCode c

/-- The elements of CONV, converted (R51, R52, R246). -/
def convAll (frm dst : Fmt) (mid : Option Fmt) : Nat → List Byte → List Byte
  | 0, _ => []
  | n + 1, bs =>
    let x := leNat (bs.take frm.size)
    let y := match mid with
      | some m => convertVia frm m dst x
      | none => convert frm dst x
    leBytes dst.size y ++ convAll frm dst mid n (bs.drop frm.size)

/-- CONV (R246, R400). -/
def convRun (s : State) (r : SRef) (mode : W64) : EngEnd × W32 :=
  let g := (s.stream r).regs
  let src := xAddr g 0 0
  let dst := xAddr g 0 1
  let n := (xPar g 0 2).toNat
  let fm := xPar g 0 3
  let chain := flag mode 4
  match convFmt (fld fm 4 4), convFmt (fld fm 0 4), convFmt (fld mode 0 4) with
  | some f, some t, m =>
    if chain && m.isNone then (.done s 18, 0)
    else if n = 0 ∨ 4096 < n ∨ src % f.size ≠ 0 ∨ dst % t.size ≠ 0 ∨ !inSpad src (n * f.size) ∨ !inSpad dst (n * t.size) ∨
        overlaps src (n * f.size) dst (n * t.size) then (.done s 12, 0)
    else if !engInSets (s.stream r) 3 [(src, n * f.size, false), (dst, n * t.size, true)] then (.trap 9 3, 0)
    else (s.engWrite r [(dst, convAll f t (if chain then m else none) n (s.engRead r src (n * f.size)))] 0, 0)
  | _, _, _ => (.done s 18, 0)

/-- CONV: the conversion unit's operation (R246). -/
def execConv (r : SRef) (s : State) : Host.Outcome State Fault Refusal :=
  if r.core < numCores then .next (s.xRun r 0 convRun) else .fault .noSuchCore

/-! ### PACK -/

/-- The `n` elements of `e` bytes of a vector. -/
def chunks (e : Nat) : Nat → List Byte → List (List Byte)
  | 0, _ => []
  | n + 1, bs => bs.take e :: chunks e n (bs.drop e)

/-- The mask of a record: bit k says that element k is nonzero (R248). -/
def nonzeroMask : List (List Byte) → Nat
  | [] => 0
  | x :: t => (if x.any (· != 0) then 1 else 0) + 2 * nonzeroMask t

/-- The length word of a record (R248). -/
def lengthWord (ovr : Bool) (esz nnz : Nat) : W32 :=
  BitVec.ofNat 32 ((if ovr then 2 ^ 31 else 0) + esz * 2 ^ 29 + nnz)

/-- PACK (R248, R400): the record of a 1 KiB vector, or its length word alone when it exceeds CAP. -/
def packRun (s : State) (r : SRef) (_mode : W64) : EngEnd × W32 :=
  let g := (s.stream r).regs
  let src := xAddr g 1 0
  let dst := xAddr g 1 1
  let cap := (xPar g 1 2).toNat
  let esz := (xPar g 1 3).toNat
  if 2 < esz ∨ src % 64 ≠ 0 ∨ dst % 4 ≠ 0 ∨ cap < 4 ∨ 0x1800000 < cap ∨ !inSpad src 1024 ∨ !inSpad dst cap ∨
      overlaps src 1024 dst cap then (.done s 12, 0)
  else
    let e := 2 ^ esz
    let el := chunks e (1024 / e) (s.engRead r src 1024)
    let vals := el.filter fun x => x.any (· != 0)
    let size := 4 + 128 / e + vals.length * e
    let big := decide (cap < size)
    let w := lengthWord big esz vals.length
    let out := if big then leBytes 4 w.toNat
      else leBytes 4 w.toNat ++ leBytes (128 / e) (nonzeroMask el) ++ vals.flatten
    if !engInSets (s.stream r) 3 [(src, 1024, false), (dst, out.length, true)] then (.trap 9 3, 0)
    else (s.engWrite r [(dst, out)] (if big then 15 else 0), w)

/-- PACK: the record unit's operation (R248). -/
def execPack (r : SRef) (s : State) : Host.Outcome State Fault Refusal :=
  if r.core < numCores then .next (s.xRun r 1 packRun) else .fault .noSuchCore

/-! ### TRAN -/

/-- TRAN (R247, R249, R400): a 32 × 32 transpose; with mode bit 0, the CRC of the output rows. -/
def tranRun (s : State) (r : SRef) (mode : W64) : EngEnd × W32 :=
  let g := (s.stream r).regs
  let src := xAddr g 2 0
  let dst := xAddr g 2 1
  let ss := (xPar g 2 2).toNat
  let ds := (xPar g 2 3).toNat
  let esz := (xPar g 2 4).toNat
  if 2 < esz then (.done s 12, 0)
  else
    let e := 2 ^ esz
    let n := 32 * e
    if ss < n ∨ ds < n ∨ src % e ≠ 0 ∨ dst % e ≠ 0 ∨ !inSpad src (31 * ss + n) ∨ !inSpad dst (31 * ds + n) ∨
        overlaps src (31 * ss + n) dst (31 * ds + n) then (.done s 12, 0)
    else
      let l := List.range 32
      if !engInSets (s.stream r) 3 (l.map (fun i => (src + i * ss, n, false)) ++ l.map fun j => (dst + j * ds, n, true))
      then (.trap 9 3, 0)
      else
        let rows := l.map fun i => chunks e 32 (s.engRead r (src + i * ss) n)
        let out := l.map fun j => (dst + j * ds, rows.flatMap fun x => x.getD j [])
        let crc := crc32c (fld (xPar g 3 2) 0 32) (out.flatMap fun p => p.2)
        (s.engWrite r out 0, if flag mode 0 then crc else 0)

/-- TRAN: the transpose unit's operation (R247). -/
def execTran (r : SRef) (s : State) : Host.Outcome State Fault Refusal :=
  if r.core < numCores then .next (s.xRun r 2 tranRun) else .fault .noSuchCore

/-! ### SUM -/

/-- SUM (R249, R400): a CRC-32C over an extent. -/
def sumRun (s : State) (r : SRef) (_mode : W64) : EngEnd × W32 :=
  let g := (s.stream r).regs
  let src := xAddr g 3 0
  let n := (xPar g 3 1).toNat
  if n = 0 ∨ 0x1800000 < n ∨ !inSpad src n then (.done s 12, 0)
  else if !engInSets (s.stream r) 3 [(src, n, false)] then (.trap 9 3, 0)
  else (.done s 0, crc32c (fld (xPar g 3 2) 0 32) (s.engRead r src n))

/-- SUM: the checksum unit's operation (R249). -/
def execSum (r : SRef) (s : State) : Host.Outcome State Fault Refusal :=
  if r.core < numCores then .next (s.xRun r 3 sumRun) else .fault .noSuchCore

/-! ### Retirement -/

/-- What a retiring trigger writes to its result register (R398). -/
def xWriteResult (g : Regs) (unit : Nat) (mode : W64) (o : Op) : Regs :=
  if unit = 1 ∧ (o.status = 0 ∨ o.status = 15) then { g with packRes := o.crc.setWidth 64 }
  else if (unit = 3 ∨ (unit = 2 ∧ flag mode 0)) ∧ o.status = 0 then { g with sumRes := o.crc.setWidth 64 }
  else g

/-- What the oldest X operation writes as it retires: a parameter, an x register, or a unit's result; none while a trigger
has not run (R243, R398, R399). -/
def xEffect (g : Regs) (o : Op) : Option Regs :=
  match o.body with
  | .xget port x => some { g with x := g.x.set x.toNat (xResult g port) 0 }
  | b => match xTrigger g b, xMove g b with
    | some (u, m), _ => if o.stage = .finished then some (xWriteResult g u m o) else none
    | none, some (p, v) => some { g with xparam := g.xparam.set p v 0 }
    | none, none => some g

/-- X_OPERATION_RETIRE (R245, R398, R399): the oldest X operation of a stream retires and its token is set. -/
def execXOperationRetire (r : SRef) (s : State) : Host.Outcome State Fault Refusal :=
  if r.core < numCores then
    let st := s.stream r
    match st.xq with
    | [] => .next s
    | o :: rest =>
      if tokensSet st o then
        if o.stage == .queued && tokensBad st o then
          .next (s.updStream r fun st => setGen { st with xq := rest } o.out 7 0)
        else match xEffect st.regs o with
          | some g => .next (s.updStream r fun st => setGen { st with xq := rest, regs := g } o.out o.status 0)
          | none => .next s
      else .next s
  else .fault .noSuchCore

end Sys2Proof.Machine
end

