-- ==== Sys2Proof/Machine/Dispatch.lean ====
section
/-! DEFINITION. The meaning of every instruction: one arm for each constructor of `Instr`. -/
namespace Sys2Proof.Machine

/-- What one instruction of the opcode table does. -/
def exec (i : Instr) (s : State) : Host.Outcome State Fault Refusal :=
  match i with
  | .br g off => Sys2Proof.Machine.execBr g off s
  | .brk g imm => Sys2Proof.Machine.execBrk g imm s
  | .brx g x => Sys2Proof.Machine.execBrx g x s
  | .call g kd off => Sys2Proof.Machine.execCall g kd off s
  | .fmt g v => Sys2Proof.Machine.execFmt g v s
  | .halt g => Sys2Proof.Machine.execHalt g s
  | .leave g => Sys2Proof.Machine.execLeave g s
  | .lit imm => Sys2Proof.Machine.execLit imm s
  | .loop g n exoff => Sys2Proof.Machine.execLoop g n exoff s
  | .mfs g kd sreg => Sys2Proof.Machine.execMfs g kd sreg s
  | .mts g x sreg => Sys2Proof.Machine.execMts g x sreg s
  | .opp g v => Sys2Proof.Machine.execOpp g v s
  | .phase g v => Sys2Proof.Machine.execPhase g v s
  | .rcm g v => Sys2Proof.Machine.execRcm g v s
  | .ret g x => Sys2Proof.Machine.execRet g x s
  | .stat g kd z => Sys2Proof.Machine.execStat g kd z s
  | .svc g imm => Sys2Proof.Machine.execSvc g imm s
  | .wait g t0 t1 t2 t3 => Sys2Proof.Machine.execWait g t0 t1 t2 t3 s
  | .add g ad s1 s2 w => Sys2Proof.Machine.execAdd g ad s1 s2 w s
  | .addi g ad s1 lt imm => Sys2Proof.Machine.execAddi g ad s1 lt imm s
  | .and g ad s1 s2 w => Sys2Proof.Machine.execAnd g ad s1 s2 w s
  | .clz g ad s1 w => Sys2Proof.Machine.execClz g ad s1 w s
  | .cmp g gd s1 s2 cc w => Sys2Proof.Machine.execCmp g gd s1 s2 cc w s
  | .div g ad s1 s2 w sg => Sys2Proof.Machine.execDiv g ad s1 s2 w sg s
  | .gand g gd n1 gs1 n2 gs2 => Sys2Proof.Machine.execGand g gd n1 gs1 n2 gs2 s
  | .gnot g gd n1 gs1 => Sys2Proof.Machine.execGnot g gd n1 gs1 s
  | .gor g gd n1 gs1 n2 gs2 => Sys2Proof.Machine.execGor g gd n1 gs1 n2 gs2 s
  | .ld g ad sb sz sx off => Sys2Proof.Machine.execLd g ad sb sz sx off s
  | .max g ad s1 s2 w sg => Sys2Proof.Machine.execMax g ad s1 s2 w sg s
  | .min g ad s1 s2 w sg => Sys2Proof.Machine.execMin g ad s1 s2 w sg s
  | .movi g ad lt imm => Sys2Proof.Machine.execMovi g ad lt imm s
  | .mul g ad s1 s2 w => Sys2Proof.Machine.execMul g ad s1 s2 w s
  | .mulh g ad s1 s2 w sg => Sys2Proof.Machine.execMulh g ad s1 s2 w sg s
  | .or g ad s1 s2 w => Sys2Proof.Machine.execOr g ad s1 s2 w s
  | .popc g ad s1 w => Sys2Proof.Machine.execPopc g ad s1 w s
  | .rem g ad s1 s2 w sg => Sys2Proof.Machine.execRem g ad s1 s2 w sg s
  | .sel g ad gn2 gs s1 s2 => Sys2Proof.Machine.execSel g ad gn2 gs s1 s2 s
  | .shl g ad s1 s2 w => Sys2Proof.Machine.execShl g ad s1 s2 w s
  | .shr g ad s1 s2 w => Sys2Proof.Machine.execShr g ad s1 s2 w s
  | .sra g ad s1 s2 w => Sys2Proof.Machine.execSra g ad s1 s2 w s
  | .st g sd sb sz off => Sys2Proof.Machine.execSt g sd sb sz off s
  | .sub g ad s1 s2 w => Sys2Proof.Machine.execSub g ad s1 s2 w s
  | .xfr g df di sf si l el => Sys2Proof.Machine.execXfr g df di sf si l el s
  | .xor g ad s1 s2 w => Sys2Proof.Machine.execXor g ad s1 s2 w s
  | .vabs g vd va vt => Sys2Proof.Machine.execVabs g vd va vt s
  | .vadd g vd va vb vt => Sys2Proof.Machine.execVadd g vd va vb vt s
  | .vand g vd va vb vt => Sys2Proof.Machine.execVand g vd va vb vt s
  | .vbcast g vd x => Sys2Proof.Machine.execVbcast g vd x s
  | .vclamp g vd va vb vt => Sys2Proof.Machine.execVclamp g vd va vb vt s
  | .vcmp g vgd va vb cc vt => Sys2Proof.Machine.execVcmp g vgd va vb cc vt s
  | .vcompact g vd vg gn2 va => Sys2Proof.Machine.execVcompact g vd vg gn2 va s
  | .vcvt g vd va frm dst => Sys2Proof.Machine.execVcvt g vd va frm dst s
  | .vexp2 g vd va vt => Sys2Proof.Machine.execVexp2 g vd va vt s
  | .vfma g vd va vb vt => Sys2Proof.Machine.execVfma g vd va vb vt s
  | .vmax g vd va vb vt => Sys2Proof.Machine.execVmax g vd va vb vt s
  | .vmin g vd va vb vt => Sys2Proof.Machine.execVmin g vd va vb vt s
  | .vmov g vd va vt => Sys2Proof.Machine.execVmov g vd va vt s
  | .vmul g vd va vb vt => Sys2Proof.Machine.execVmul g vd va vb vt s
  | .vor g vd va vb vt => Sys2Proof.Machine.execVor g vd va vb vt s
  | .vperm g vd va vb vt => Sys2Proof.Machine.execVperm g vd va vb vt s
  | .vrcp g vd va vt => Sys2Proof.Machine.execVrcp g vd va vt s
  | .vred g vd va op vt => Sys2Proof.Machine.execVred g vd va op vt s
  | .vrsq g vd va vt => Sys2Proof.Machine.execVrsq g vd va vt s
  | .vscan g vd va op vt => Sys2Proof.Machine.execVscan g vd va op vt s
  | .vsel g vd vg gn2 va vb => Sys2Proof.Machine.execVsel g vd vg gn2 va vb s
  | .vshl g vd va vb vt => Sys2Proof.Machine.execVshl g vd va vb vt s
  | .vshr g vd va vb vt => Sys2Proof.Machine.execVshr g vd va vb vt s
  | .vsub g vd va vb vt => Sys2Proof.Machine.execVsub g vd va vb vt s
  | .vxor g vd va vb vt => Sys2Proof.Machine.execVxor g vd va vb vt s
  | .aadd g v base ct vi t => Sys2Proof.Machine.execAadd g v base ct vi t s
  | .aaddf g v base ct vi t => Sys2Proof.Machine.execAaddf g v base ct vi t s
  | .acas g v base ct vi t => Sys2Proof.Machine.execAcas g v base ct vi t s
  | .aswap g v base ct vi t => Sys2Proof.Machine.execAswap g v base ct vi t s
  | .tagi g v1 ct => Sys2Proof.Machine.execTagi g v1 ct s
  | .tagl g v1 v2 ct => Sys2Proof.Machine.execTagl g v1 v2 ct s
  | .tagw g v1 v2 ct => Sys2Proof.Machine.execTagw g v1 v2 ct s
  | .vld g v base ct off => Sys2Proof.Machine.execVld g v base ct off s
  | .vlde g v base ct off => Sys2Proof.Machine.execVlde g v base ct off s
  | .vldx g v base ct vi li => Sys2Proof.Machine.execVldx g v base ct vi li s
  | .vst g v base ct l off => Sys2Proof.Machine.execVst g v base ct l off s
  | .vstx g v base ct vi li ld => Sys2Proof.Machine.execVstx g v base ct vi li ld s
  | .manch h z m => Sys2Proof.Machine.execManch h z m s
  | .mdrain h z m => Sys2Proof.Machine.execMdrain h z m s
  | .mma h z ma mb => Sys2Proof.Machine.execMma h z ma mb s
  | .mmas h z ma mb sc => Sys2Proof.Machine.execMmas h z ma mb sc s
  | .mzero h z m => Sys2Proof.Machine.execMzero h z m s
  | .pcheck h p => Sys2Proof.Machine.execPcheck h p s
  | .pdot h z q p => Sys2Proof.Machine.execPdot h z q p s
  | .pgrp h p => Sys2Proof.Machine.execPgrp h p s
  | .pscan h q p => Sys2Proof.Machine.execPscan h q p s
  | .pscore h p => Sys2Proof.Machine.execPscore h p s
  | .xget h sp x => Sys2Proof.Machine.execXget h sp x s
  | .xmv h dp x => Sys2Proof.Machine.execXmv h dp x s
  | .xmvi h dp lt imm => Sys2Proof.Machine.execXmvi h dp lt imm s
  | .atomm h d op => Sys2Proof.Machine.execAtomm h d op s
  | .atomr h d op => Sys2Proof.Machine.execAtomr h d op s
  | .cbar h => Sys2Proof.Machine.execCbar h s
  | .cpy h d ac ord => Sys2Proof.Machine.execCpy h d ac ord s
  | .cpyg h d ac ord => Sys2Proof.Machine.execCpyg h d ac ord s
  | .cpys h d ac ord => Sys2Proof.Machine.execCpys h d ac ord s
  | .cpyx h d ac ord => Sys2Proof.Machine.execCpyx h d ac ord s
  | .cred h d op => Sys2Proof.Machine.execCred h d op s
  | .fence h scope sc => Sys2Proof.Machine.execFence h scope sc s
  | .gdone h d => Sys2Proof.Machine.execGdone h d s
  | .gtrig h d => Sys2Proof.Machine.execGtrig h d s
  | .notify h d => Sys2Proof.Machine.execNotify h d s
  | .tokj h => Sys2Proof.Machine.execTokj h s
  | .emptyBundle f => Sys2Proof.Machine.execEmptyBundle f s
  | .checkpointCommit r => Sys2Proof.Machine.execCheckpointCommit r s
  | .clusterWake r cl => Sys2Proof.Machine.execClusterWake r cl s
  | .mizzenPrioritySwap core => Sys2Proof.Machine.execMizzenPrioritySwap core s
  | .gangMemberExecute r => Sys2Proof.Machine.execGangMemberExecute r s
  | .engineBind core e => Sys2Proof.Machine.execEngineBind core e s
  | .engineStart core e sub => Sys2Proof.Machine.execEngineStart core e sub s
  | .virtualEngineFinish core e sub => Sys2Proof.Machine.execVirtualEngineFinish core e sub s
  | .virtualEngineRetire r e => Sys2Proof.Machine.execVirtualEngineRetire r e s
  | .conv r => Sys2Proof.Machine.execConv r s
  | .pack r => Sys2Proof.Machine.execPack r s
  | .tran r => Sys2Proof.Machine.execTran r s
  | .sum r => Sys2Proof.Machine.execSum r s
  | .xOperationRetire r => Sys2Proof.Machine.execXOperationRetire r s
  | .copyComplete r id => Sys2Proof.Machine.execCopyComplete r id s
  | .dOperationComplete r id => Sys2Proof.Machine.execDOperationComplete r id s
  | .translationFault r id => Sys2Proof.Machine.execTranslationFault r id s
  | .faultResume n => Sys2Proof.Machine.execFaultResume n s
  | .faultAbort n => Sys2Proof.Machine.execFaultAbort n s
  | .tlbInvalidate ctx range => Sys2Proof.Machine.execTlbInvalidate ctx range s
  | .accessCounterThreshold die ctx block => Sys2Proof.Machine.execAccessCounterThreshold die ctx block s
  | .trapTaken r => Sys2Proof.Machine.execTrapTaken r s
  | .safePointOverdue r => Sys2Proof.Machine.execSafePointOverdue r s
  | .trapContinue r edits => Sys2Proof.Machine.execTrapContinue r edits s
  | .trapEscalate r => Sys2Proof.Machine.execTrapEscalate r s
  | .contextTerminate ctx => Sys2Proof.Machine.execContextTerminate ctx s
  | .preemptionRequest r => Sys2Proof.Machine.execPreemptionRequest r s
  | .preemptionLand r => Sys2Proof.Machine.execPreemptionLand r s
  | .contextRestore r ctx => Sys2Proof.Machine.execContextRestore r ctx s
  | .queueNop slot => Sys2Proof.Machine.execQueueNop slot s
  | .launch slot => Sys2Proof.Machine.execLaunch slot s
  | .ib slot => Sys2Proof.Machine.execIb slot s
  | .signal slot => Sys2Proof.Machine.execSignal slot s
  | .waitmem slot => Sys2Proof.Machine.execWaitmem slot s
  | .waitmemPoll slot => Sys2Proof.Machine.execWaitmemPoll slot s
  | .graphload slot => Sys2Proof.Machine.execGraphload slot s
  | .graphrun slot => Sys2Proof.Machine.execGraphrun slot s
  | .queueRestart qid => Sys2Proof.Machine.execQueueRestart qid s
  | .launchStart id => Sys2Proof.Machine.execLaunchStart id s
  | .launchComplete id => Sys2Proof.Machine.execLaunchComplete id s
  | .triggerWrite n => Sys2Proof.Machine.execTriggerWrite n s
  | .graphRunStart ctx gid => Sys2Proof.Machine.execGraphRunStart ctx gid s
  | .graphNodeComplete ctx gid node => Sys2Proof.Machine.execGraphNodeComplete ctx gid node s
  | .policyPick part => Sys2Proof.Machine.execPolicyPick part s
  | .policyEnqueue part qid => Sys2Proof.Machine.execPolicyEnqueue part qid s
  | .policyTimeSlice part => Sys2Proof.Machine.execPolicyTimeSlice part s
  | .policyLoad part words => Sys2Proof.Machine.execPolicyLoad part words s
  | .queueMap qid slot => Sys2Proof.Machine.execQueueMap qid slot s
  | .queueUnmap qid => Sys2Proof.Machine.execQueueUnmap qid s
  | .queueUnmapComplete slot => Sys2Proof.Machine.execQueueUnmapComplete slot s
  | .ualinkDoorbellWrite u va bytes => Sys2Proof.Machine.execUalinkDoorbellWrite u va bytes s
  | .uetNotifyMessage bytes => Sys2Proof.Machine.execUetNotifyMessage bytes s
  | .ualinkTriggerWrite u va bytes => Sys2Proof.Machine.execUalinkTriggerWrite u va bytes s
  | .notifyAckTimeout r id => Sys2Proof.Machine.execNotifyAckTimeout r id s
  | .peerWrite u ctx va bytes => Sys2Proof.Machine.execPeerWrite u ctx va bytes s
  | .peerRead u ctx va len => Sys2Proof.Machine.execPeerRead u ctx va len s
  | .peerReadAnswer n => Sys2Proof.Machine.execPeerReadAnswer n s
  | .peerAtomic u ctx va wide op opnd cmp => Sys2Proof.Machine.execPeerAtomic u ctx va wide op opnd cmp s
  | .routerPacketArrival core tree src => Sys2Proof.Machine.execRouterPacketArrival core tree src s
  | .treeDeadline core tree => Sys2Proof.Machine.execTreeDeadline core tree s
  | .barrierComplete r level => Sys2Proof.Machine.execBarrierComplete r level s
  | .egressSend ctx => Sys2Proof.Machine.execEgressSend ctx s
  | .recoveryPoint ctx => Sys2Proof.Machine.execRecoveryPoint ctx s
  | .recoveryPointComplete ctx => Sys2Proof.Machine.execRecoveryPointComplete ctx s
  | .uncorrectableMemoryError pa => Sys2Proof.Machine.execUncorrectableMemoryError pa s
  | .coreHardwareError core unit => Sys2Proof.Machine.execCoreHardwareError core unit s
  | .evtake mc => Sys2Proof.Machine.execEvtake mc s
  | .evack mc => Sys2Proof.Machine.execEvack mc s
  | .nymenCrash => Sys2Proof.Machine.execNymenCrash s
  | .nymenThaw => Sys2Proof.Machine.execNymenThaw s
  | .warmRestartTimeout => Sys2Proof.Machine.execWarmRestartTimeout s
  | .coldReset => Sys2Proof.Machine.execColdReset s
  | .bootImage img => Sys2Proof.Machine.execBootImage img s
  | .fuseMinimumRaise kind svn => Sys2Proof.Machine.execFuseMinimumRaise kind svn s
  | .getMeasurements => Sys2Proof.Machine.execGetMeasurements s
  | .partitionCreate part cores => Sys2Proof.Machine.execPartitionCreate part cores s
  | .partitionResize part cores => Sys2Proof.Machine.execPartitionResize part cores s
  | .partitionDestroy part => Sys2Proof.Machine.execPartitionDestroy part s
  | .keySlotLoad slot => Sys2Proof.Machine.execKeySlotLoad slot s
  | .mastRegisterWrite w => Sys2Proof.Machine.execMastRegisterWrite w s
  | .debugUnlock part authenticated approved => Sys2Proof.Machine.execDebugUnlock part authenticated approved s
  | .debugStop r => Sys2Proof.Machine.execDebugStop r s
  | .debugAccess a => Sys2Proof.Machine.execDebugAccess a s
  | .debugSessionEnd part => Sys2Proof.Machine.execDebugSessionEnd part s
  | .arbiterEpoch measured => Sys2Proof.Machine.execArbiterEpoch measured s
  | .droopEvent core mv rise => Sys2Proof.Machine.execDroopEvent core mv rise s
  | .droopPenaltyEnd die cluster => Sys2Proof.Machine.execDroopPenaltyEnd die cluster s
  | .clusterIdle die cluster => Sys2Proof.Machine.execClusterIdle die cluster s
  | .clusterReactivate die cluster => Sys2Proof.Machine.execClusterReactivate die cluster s
  | .lendingRecallComplete die cluster => Sys2Proof.Machine.execLendingRecallComplete die cluster s
  | .oppTransitionComplete core => Sys2Proof.Machine.execOppTransitionComplete core s
  | .meterWindowEnd core usedPj => Sys2Proof.Machine.execMeterWindowEnd core usedPj s
  | .thermalLimit stack left => Sys2Proof.Machine.execThermalLimit stack left s
  | .mastTimer part n => Sys2Proof.Machine.execMastTimer part n s
  | .ethernetLinkTraining port form => Sys2Proof.Machine.execEthernetLinkTraining port form s
  | .ualinkLinkTraining station link rate => Sys2Proof.Machine.execUalinkLinkTraining station link rate s
  | .pcieLinkTraining gen width => Sys2Proof.Machine.execPcieLinkTraining gen width s
  | .ucieModuleTraining edge modl res => Sys2Proof.Machine.execUcieModuleTraining edge modl res s
  | .correctedSoftError pa => Sys2Proof.Machine.execCorrectedSoftError pa s

end Sys2Proof.Machine
end

