-- ==== Sys2Proof/Machine/Schedule.lean ====
section
/-! DEFINITION. The default schedule: which agent moves when the agenda is empty (log 1). The steps of the device's own
agents come first, each as soon as it is due; then the current stream issues. What the outside world, the Mast's software and
a timer do comes from the agenda alone. -/
namespace Sys2Proof.Machine

/-- The streams of the cores that the state lists. -/
def allStreams (s : State) : List SRef := s.cores.flatMap fun p => [⟨p.1, .main⟩, ⟨p.1, .miz⟩]

/-- A list when a condition holds. -/
def whenOn {α : Type} (b : Bool) (l : List α) : List α := if b then l else []

/-- The finishes on a virtual engine of a core. -/
def finishEvents (core : Nat) (e : Eng) : List Instr := [.virtualEngineFinish core e false, .virtualEngineFinish core e true]

/-- The starts and bindings on a virtual engine of a core. -/
def bindEvents (core : Nat) (e : Eng) : List Instr := [.engineStart core e false, .engineStart core e true, .engineBind core e]

/-- The steps of the virtual engines of a core that have operations: in one cycle every finish and every retirement, of both engines and
both streams, comes before a binding (R142). -/
def engineEvents (s : State) (core : Nat) : List Instr :=
  let c := s.core core
  let onM := !c.main.mq.isEmpty || !c.miz.mq.isEmpty
  let onP := !c.main.pq.isEmpty || !c.miz.pq.isEmpty
  let ends (r : SRef) (st : Stream) : List Instr :=
    whenOn (!st.mq.isEmpty) [.virtualEngineRetire r .m] ++ whenOn (!st.pq.isEmpty) [.virtualEngineRetire r .p] ++
      whenOn (!st.xq.isEmpty) [.xOperationRetire r, .conv r, .pack r, .tran r, .sum r]
  whenOn onM (finishEvents core .m) ++ whenOn onP (finishEvents core .p) ++ ends ⟨core, .main⟩ c.main ++ ends ⟨core, .miz⟩ c.miz ++
    whenOn onM (bindEvents core .m) ++ whenOn onP (bindEvents core .p)

/-- The level of the domain in which a dispatched CBAR waits. -/
def cbarLevels (o : Op) : List Nat := match o.body with | .cbar l => [l] | _ => []

/-- The tree that a registering CRED names. -/
def credTrees (s : State) (r : SRef) (o : Op) : List Nat :=
  match o.body with
  | .cred d0 d1 fxw =>
    let part := (s.ctx (s.stream r).owner).partition
    match credCheck (s.core r.core) (s.stream r) (s.part part).cores r.core d0 d1 fxw with
    | .invalid t => [treeNo part t]
    | .ok d => [treeNo part d.tid]
    | _ => [treeNo part 0]
  | _ => []

/-- The gated clusters that the next bundle of a stream names (R65). -/
def wakeNeeded (s : State) (r : SRef) : List Nat :=
  let st := s.stream r
  if st.sys.gatedClusters == 0 || !st.mayIssue then []
  else match (fetchBundle (s.core r.core) (64 * (st.launch.getD {}).tlen) st.regs.pc).res with
    | .error _ => []
    | .ok b =>
      ((b.slots.filter fun i => guardHolds st.regs i.guard).flatMap fun i => i.vregs.map (· / 64)).eraseDups.filter fun n =>
        flag st.sys.gatedClusters n && flag st.vcl n

/-- The steps that one stream may be due, but for those of its M, P and X operations. -/
def streamEvents (s : State) (r : SRef) : List Instr :=
  let st := s.stream r
  whenOn st.ckpt.isSome [.checkpointCommit r] ++ whenOn (!st.traps.isEmpty) [.trapTaken r] ++
  whenOn (!st.shroud.isEmpty) [.gangMemberExecute r] ++
  (st.dq.filter fun o => o.stage != .finished).flatMap (fun o =>
    whenOn o.body.isCopy [.copyComplete r o.id] ++ whenOn (!o.body.isCopy) [.dOperationComplete r o.id] ++
      [.translationFault r o.id] ++ (cbarLevels o).map (.barrierComplete r) ++
      (credTrees s r o).map fun t => .routerPacketArrival r.core t r.core) ++
  (match st.phaseWait with | some w => [.barrierComplete r w.level] | none => []) ++
  (wakeNeeded s r).map (.clusterWake r) ++
  whenOn (st.run == .saved || (st.preempt && st.run != .running)) [.preemptionLand r] ++ whenOn st.fatal [.contextTerminate st.owner] ++
  whenOn st.overdue [.safePointOverdue r]

/-- The steps of the cores' power and arbitration. -/
def coreEvents (s : State) (core : Nat) : List Instr :=
  let c := s.core core
  let idle := (s.arbiter.lend (lendKey (core / 36) (clusterOf core))).idle
  whenOn (idle && c.quiet < 1024) [.clusterReactivate (core / 36) (clusterOf core)] ++
  whenOn (!idle && c.quiet == 1024) [.clusterIdle (core / 36) (clusterOf core)] ++
  whenOn c.power.trans.isSome [.oppTransitionComplete core] ++ whenOn c.swapDue [.mizzenPrioritySwap core]

/-- The packet steps of a slot. -/
def slotEvents (s : State) (k : Nat) (q : QSlot) : List Instr :=
  whenOn q.unmapping [.queueUnmapComplete k] ++ whenOn q.waitmem.isSome [.waitmemPoll k] ++
  (match q.qid with
   | some n => whenOn q.ready [.policyEnqueue (s.ctx (s.slotQueue q).ctx).partition n]
   | none => []) ++
  whenOn (q.picked && (s.find k).2 != .idle)
    [.queueNop k, .launch k, .ib k, .signal k, .waitmem k, .graphload k, .graphrun k]

/-- A pick is due: no slot of the partition is picked, and one has work (R252, R270). -/
def pickEvents (s : State) : List Instr :=
  (s.mast.parts.map (·.1)).flatMap fun p =>
    let l := s.cands p
    whenOn ((l.any Cand.runnable) && l.all fun c => !(s.slot c.slot).picked) [.policyPick p]

/-- The steps of the front end, the graph scheduler and the launches. -/
def frontEvents (s : State) : List Instr :=
  let launches := ((allStreams s).filterMap fun r => (s.stream r).launch.map LaunchInfo.id).eraseDups
  launches.map .launchComplete ++ s.fe.pending.map (fun p => .launchStart p.id) ++
  (s.fe.triggers.zipIdx.filter fun p => s.trigFirst p.2 p.1.2.2).map (fun p => .triggerWrite p.2) ++
  (s.fe.graphs.flatMap fun (p : Nat × Option Graph) =>
    .graphRunStart (p.1 / 256) (p.1 % 256) ::
      ((p.2.map Graph.allRuns).getD []).flatMap fun u => (List.range u.nodes.length).map (.graphNodeComplete (p.1 / 256) (p.1 % 256))) ++
  (s.fe.slots.flatMap fun (p : Nat × QSlot) => slotEvents s p.1 p.2) ++ pickEvents s

/-- The steps of the routers, the peers' requests, recovery and termination. -/
def systemEvents (s : State) : List Instr :=
  (s.fabric.flight.map fun p => .routerPacketArrival p.1 p.2.1 p.2.2.2.src) ++
  ((s.fabric.nodes.filter fun (p : Nat × TreeNode) => p.2.insts.any fun i => i.ready (keyCore p.1)).map fun p =>
    .routerPacketArrival (keyCore p.1) (keyTree p.1) (keyCore p.1)) ++
  ((s.fabric.nodes.filter fun (p : Nat × TreeNode) => p.2.insts.any s.overdue).map fun p => .treeDeadline (keyCore p.1) (keyTree p.1)) ++
  (s.peers.reqs.filter fun q => q.fault.isNone).map (fun q => .peerReadAnswer q.n) ++
  ((s.egress.map EgItem.ctx).eraseDups.map .egressSend) ++
  (s.recov.flatMap fun (p : Nat × Recov) => [.recoveryPoint p.1, .recoveryPointComplete p.1]) ++
  (s.mast.ending.map fun p => .contextTerminate p.1) ++
  ((s.arbiter.penalties.filter fun d => decide (d.ends ≤ s.time)).map fun d => .droopPenaltyEnd d.die d.cluster) ++
  s.dies.flatMap fun (p : Nat × Die) =>
    (p.2.counters.filter fun c => decide (0 < (s.ctx c.ctx).acthr.toNat) && decide ((s.ctx c.ctx).acthr.toNat ≤ c.count)).map fun c =>
      .accessCounterThreshold p.1 c.ctx c.block

/-- The steps that may be due. -/
def candidates (s : State) : List Instr :=
  (allStreams s).flatMap (streamEvents s) ++ (s.cores.flatMap fun p => engineEvents s p.1 ++ coreEvents s p.1) ++ frontEvents s ++ systemEvents s

/-- Whether a step does anything now. A poll that finds its condition false does nothing that counts. -/
def moves (s : State) (i : Instr) : Bool :=
  match exec i s with
  | .next t =>
    match i with
    | .waitmemPoll k => (t.slot k).waitmem.isNone || (t.slot k).fault.isSome
    | _ => decide (t ≠ s)
  | _ => false

/-- The next step of the device's own agents, if any is due. -/
def nextEvent (s : State) : Option Instr := (candidates s).find? (moves s)

/-- Idle cycles pass on a core; a gated core has none (R25, R356). -/
def idleTurn (s : State) (core n : Nat) : Host.Outcome State Fault Refusal :=
  if core < numCores then .next (if s.gated core then s else s.updCore core fun c => tick c n) else .fault .noSuchCore

/-- TSENSE and VSENSE of a core are sampled (R356); a droop of more than 40 mV is a droop event (R307). -/
def senseTurn (s : State) (core : Nat) (temp : BitVec 16) (droop : BitVec 12) (rise : List (Nat × Nat)) :
    Host.Outcome State Fault Refusal :=
  if core < numCores then .next ((s.updCore core fun c => { c with tsense := temp.setWidth 64 }).droop core droop.toNat rise)
  else .fault .noSuchCore

/-- The streams after `r` in the order of the state's cores, then those up to it. -/
def rotation (r : SRef) (l : List SRef) : List SRef :=
  let k := (l.findIdx fun x => x == r) + 1
  l.drop k ++ l.take k

/-- The stream that has its turn after the current one: the next that can issue. -/
def nextStream (s : State) : SRef := ((rotation s.cur (allStreams s)).find? (canIssue s)).getD s.cur

/-- The turn passes on after each issue, whether or not the bundle could issue. -/
def passTurn (t : State) : State := { t with cur := nextStream t }

end Sys2Proof.Machine
end

