-- ==== Sys2Proof/Machine/Step.lean ====
section
/-! DEFINITION. One step: the agenda's next turn, or, with an empty agenda, the default schedule (log 1). -/
namespace Sys2Proof.Machine

/-- What one turn does. -/
def runTurn (t : Turn) (s : State) : Host.Outcome State Fault Refusal :=
  match t with
  | .event i => exec i s
  | .issue r => issueTurn s r
  | .idle core n => idleTurn s core n
  | .stall r => stallTurn s r
  | .terms core e sub sel => termsTurn s core e sub sel
  | .early r id sel => earlyTurn s r id sel
  | .remote group id act => remoteTurn s group id act
  | .sense core temp droop rise => senseTurn s core temp droop rise

/-- One step of the machine. -/
def step (s : State) : Host.Outcome State Fault Refusal :=
  match s.agenda with
  | t :: rest => runTurn t { s with agenda := rest }
  | [] =>
    match nextEvent s with
    | some i => exec i s
    | none =>
      match issueTurn s s.cur with
      | .next t => .next (passTurn t)
      | x => x

/-- The launch that `withFetchWord` stands for (log 1): all clusters, four tiles, the whole program store, no SAFEMAX
limit short of its largest. -/
def fetchLaunch : LaunchInfo := { vcl := 0x3FF, zt := 4, tlen := 4096 }

/-- `s` with the bytes of an instruction at program address 0 of core 0, where Main of core 0, launched and running,
fetches next. -/
def State.withFetchWord (s : State) (nbits w : Nat) : State :=
  let bs := leBytes 64 (w % 2 ^ nbits)
  let c := s.core 0
  let st : Stream := { c.main with
    run := .running, launch := some fetchLaunch, ckpt := none, traps := [], phaseWait := none, preempt := false
    frozen := {}, shroud := [], groupR := [], groupW := [], dupR := [], dupW := []
    regs := { c.main.regs with pc := 0, loops := [], holds := {} }
    sys := { c.main.sys with safemax := 0xFFFFFFFF, safeCount := 0 } }
  let c := { c with prog := writeBytes c.prog 0 bs, main := { st with dup := st.regs }, mizBlocked := 0, swap := false, lane := {}, half := none
                    power := { c.power with bucket := 0x100000, used := none, declared := 0, pgrant := c.power.pgrant ||| 0x100000000000 } }
  { s.setCore 0 c with cur := ⟨0, .main⟩, agenda := [], frame := {} }

end Sys2Proof.Machine
end

