-- ==== Sys2Proof/Safety.lean ====
section
/-! DEFINITION. What counts as a safe run, and the words in which claims are stated: when a slot runs, what counts as the
same bytes, what two states share. -/
namespace Sys2Proof

/-- The machine does not stop within `k` steps. -/
def Safe : Nat → Machine.State → Prop
  | 0, _ => True
  | k + 1, s => ∃ t, Machine.step s = .next t ∧ Safe k t

namespace Machine

/-- The slot `i` runs at `s`: its core exists (R11), it waits for nothing (R65, R67, R85, R164, R170), its guard holds (R71),
and it raises no trap (R286). -/
def Runs (i : Instr) (s : State) : Prop :=
  s.cur.core < numCores ∧ Instr.prep s i = .go ∧ guardHolds s.src.regs i.guard = true ∧ lowest (issueTraps s [i]) = none

/-- The issuing stream stands where a slot that only computes on registers runs: on a core of the package, with room left in
the withholding buffer (R88). -/
def Steady (s : State) : Prop := s.cur.core < numCores ∧ lineCount s.me.withheld ≤ 1024

/-- A stream stands at a commit: it has taken its checkpoint, and nothing that it issued is in flight, held or withheld (R81, R175, R176). -/
def AtCommit (st : Stream) : Prop :=
  st.ckptAt ≠ none ∧ st.mq = [] ∧ st.pq = [] ∧ st.xq = [] ∧ st.dheld = [] ∧ st.withheld = [] ∧ st.atoms = [] ∧
    st.beforeV = [] ∧ st.beforeQ = [] ∧ st.tileImgs = [] ∧ st.statImgs = []

/-- Every byte of device memory, and every scratchpad byte as each stream of each core reads it, is the same. -/
def SameBytes (s t : State) : Prop :=
  (∀ pa, SMap.get (α := Byte) t.mem pa 0 = SMap.get (α := Byte) s.mem pa 0) ∧
    ∀ n w a, spadRead (t.core n) w a 1 = spadRead (s.core n) w a 1

/-- The scratchpad bytes from `a` to `a + n - 1` of the issuing stream apart, `t` has the bytes of `s`. -/
def SameBytesBut (a n : Nat) (s t : State) : Prop :=
  (∀ pa, SMap.get (α := Byte) t.mem pa 0 = SMap.get (α := Byte) s.mem pa 0) ∧
    ∀ c w x, (c = s.cur.core ∧ w = s.cur.strm ∧ a ≤ x ∧ x < a + n) ∨ spadRead (t.core c) w x 1 = spadRead (s.core c) w x 1

/-- The source `x` of an A slot names register `n` of file `f` and is marked (R80). -/
def Marks (x : Src) (f : RFile) (n : Nat) : Bool := x.mark && x.reg .a == ⟨f, n, none⟩

/-- `t` differs from `s` in the registers of the issuing stream alone, and these are `r`. -/
def OnlyRegs (r : Regs) (s t : State) : Prop := t = s.updRegs s.cur fun _ => r

/-- The slot `i` of engine `k`, once it runs, puts an operation with opcode `opc` that does `b` behind its queue; an operation
of D other than TOKJ and a stream copy joins the held ones (R85, R164, R166, R170). Its token names a new generation, which is
not set; its hold is armed or ended (R74); nothing else of the state changes, but that streamed operands take their copies
(R226). -/
def Issues (k : Slot) (h : Eh) (i : Instr) (opc : BitVec 7) (b : OpBody) (s : State) : Prop :=
  Runs i s → ∃ (t : State) (o : Op), exec i s = .next t ∧ t = s.setStream s.cur t.me ∧
    o = { id := s.me.nextId, bundle := s.me.bundleNo, pc := s.src.regs.pc, opc := opc, body := b, tok := h.pt
          out := if h.pt = 0 then 0 else s.me.nextGen
          ins := ([h.ct0, h.ct1, h.ct2].filter (· != 0)).map s.src.regs.gen, feeds := o.feeds } ∧
    (let now : Bool := b == .tokj || b.isStreamCopy
     let streamed : Bool := match b with | .mma _ da db _ _ _ _ => da.getLsbD 53 || db.getLsbD 53 | _ => false
     t.me = { s.me with
      regs := { s.me.regs with
        t := if h.pt = 0 then s.me.regs.t else s.me.regs.t.set h.pt.toNat s.me.nextGen 0
        holds := setHold s.me.regs.holds k (if h.hold then some { instr := i, lit := s.frame.lit } else none) }
      gens := if h.pt = 0 then s.me.gens else s.me.gens.set s.me.nextGen { set := false } {}
      nextGen := if h.pt = 0 then s.me.nextGen else s.me.nextGen + 1
      nextId := s.me.nextId + 1
      mq := if k = .M then s.me.mq ++ [o] else s.me.mq
      pq := if k = .P then s.me.pq ++ [o] else s.me.pq
      xq := if k = .X then s.me.xq ++ [o] else s.me.xq
      dheld := if k = .D ∧ now = false then s.me.dheld ++ [o] else s.me.dheld
      dq := t.me.dq } ∧
     (streamed = false → o.feeds = [] ∧ t.me.dq = if k = .D ∧ now = true then s.me.dq ++ [o] else s.me.dq))

/-- The 32 bytes of an FXC cell after `x` has been added to it (R46, R55, R56): V takes the multiple of 2^-64 below `x` when that is in its range,
INX and RNG tell of bits lost and of a value out of range, NAN, PINF and NINF of what was seen; all other bits stay. -/
def cellSum (cell : List Byte) (x : Sys2Proof.Num) : List Byte :=
  let v : Int := (BitVec.ofNat 128 (leNat (cell.take 16))).toInt
  let word : W64 := BitVec.ofNat 64 (leNat ((cell.drop 16).take 8))
  let n : Int := match x with
    | .fin neg m e => (if neg then -(m : Int) else m) * 2 ^ (e + 64).toNat / 2 ^ (-(e + 64)).toNat
    | _ => 0
  let inx : Bool := match x with
    | .fin neg m e => decide ((if neg then -(m : Int) else m) * 2 ^ (e + 64).toNat % 2 ^ (-(e + 64)).toNat ≠ 0)
    | _ => false
  let rng : Bool := !(decide (-(2 ^ 127) ≤ n) && decide (n < 2 ^ 127))
  let seen : W64 := (if inx then 1 else 0) ||| (if rng then 2 else 0) ||| (if x = .nan then 4 else 0) |||
    (if x = .inf false then 8 else 0) ||| (if x = .inf true then 16 else 0)
  leBytes 16 (if rng then BitVec.ofInt 128 v else BitVec.ofInt 128 (v + n)).toNat ++ leBytes 8 (word ||| seen).toNat ++ cell.drop 24

/-- The operation `o` is the oldest dispatched one of stream `r`, with `rest` behind it; its tokens are set, nothing suspends or halts it, no part
of it has been done early, no write waits in the egress buffer or behind a fence that has been passed, and no store stands half made. -/
def Oldest (s : State) (r : SRef) (o : Op) (rest : List Op) : Prop :=
  r.core < numCores ∧ (s.stream r).dq = o :: rest ∧ (∀ y ∈ rest ++ (s.stream r).dheld, o.id < y.id) ∧ o.stage = .queued ∧ o.fault = none ∧ o.halted = false ∧
    (∀ g ∈ o.ins, ((s.stream r).gen g).set = true) ∧ s.egress = [] ∧ s.hasMarks = false ∧ o.acted = [] ∧ o.src = none ∧
    s.hasHalves = false

/-- No token that the operation `o` of stream `r` consumes carries an error (R165). -/
def Clean (s : State) (r : SRef) (o : Op) : Prop := ∀ g ∈ o.ins, ((s.stream r).gen g).status < 2

/-- The stream after the operation `o` before `rest` has retired with a status: its generation is set, it has left the queue (R164). -/
def retired (o : Op) (rest : List Op) (status : Nat) (st : Stream) : Stream :=
  { st with dq := rest, gens := if o.out = 0 then st.gens else st.gens.set o.out { set := true, status := status } {} }

/-- A local translation of the `n` bytes at `va` for the copy engine of stream `r`'s core, which changes no TLB: it leads to `x`, and the page
holds them all. -/
def LocalHit (s : State) (r : SRef) (va n : Nat) (rd wr : Bool) (x : Xlat) : Prop :=
  let ctx := (s.stream r).owner
  s.translate ctx (some r.core) va rd wr = (s, .ok x) ∧ n ≤ x.left ∧ leafEgr x.leaf = 0 ∧ s.boundsOk ctx va n rd wr = true ∧
    ∀ a y, va ≤ a → a < va + n → s.peekLeaf ctx (some r.core) a = some y → leafEgr y.leaf = 0

end Machine
end Sys2Proof
end

