-- ==== Sys2Proof/Certificates/Slice0/Obligations.lean ====
section
/-! DEFINITION. The statements for the provers. -/

open Sys2Proof Sys2Proof.Machine

/-! ### The A slot -/

/-- R326, R327, R359, R360, R378: sums, differences, products and immediates, of 64 bits, or of the low 32 bits and then
sign-extended under `.W32`. R325, R328, R363, R375, R401: bitwise forms and shifts; the count is taken modulo the width. -/
def Obligations.ArithmeticLogicAndShiftResults : Prop :=
  (∀ (g : Gd) (ad : BitVec 6) (s1 s2 : Src) (s : State), Steady s → guardHolds s.src.regs g = true →
     let x := s.rd .a s1; let y := s.rd .a s2
     let x32 : W32 := x.setWidth 32; let y32 : W32 := y.setWidth 32
     let done (v : W64) : Host.Outcome State Fault Refusal := .next (s.result ad v [s1, s2])
     exec (.add g ad s1 s2 false) s = done (x + y) ∧ exec (.add g ad s1 s2 true) s = done ((x32 + y32).signExtend 64) ∧
     exec (.sub g ad s1 s2 false) s = done (x - y) ∧ exec (.sub g ad s1 s2 true) s = done ((x32 - y32).signExtend 64) ∧
     exec (.mul g ad s1 s2 false) s = done (x * y) ∧ exec (.mul g ad s1 s2 true) s = done ((x32 * y32).signExtend 64) ∧
     exec (.mulh g ad s1 s2 false true) s = done ((x.signExtend 128 * y.signExtend 128) >>> 64 |>.setWidth 64) ∧
     exec (.mulh g ad s1 s2 false false) s = done ((x.setWidth 128 * y.setWidth 128) >>> 64 |>.setWidth 64) ∧
     exec (.mulh g ad s1 s2 true true) s =
       done (((x32.signExtend 64 * y32.signExtend 64) >>> 32 |>.setWidth 32 : W32).signExtend 64) ∧
     exec (.mulh g ad s1 s2 true false) s =
       done (((x32.setWidth 64 * y32.setWidth 64) >>> 32 |>.setWidth 32 : W32).signExtend 64) ∧
     ∀ (imm : BitVec 20) (wide : BitVec 29),
       exec (.addi g ad s1 false imm) s = .next (s.result ad (x + imm.signExtend 64) [s1]) ∧
       exec (.addi g ad s1 true imm) s = .next (s.result ad (x + (s.frame.lit.getD 0).signExtend 64) [s1]) ∧
       exec (.movi g ad false wide) s = .next (s.result ad (wide.signExtend 64) []) ∧
       exec (.movi g ad true wide) s = .next (s.result ad ((s.frame.lit.getD 0).signExtend 64) [])) ∧
  (∀ (g : Gd) (ad : BitVec 6) (s1 s2 : Src) (s : State), Steady s → guardHolds s.src.regs g = true →
     let x := s.rd .a s1; let y := s.rd .a s2
     let x32 : W32 := x.setWidth 32; let y32 : W32 := y.setWidth 32
     let done (v : W64) : Host.Outcome State Fault Refusal := .next (s.result ad v [s1, s2])
     exec (.and g ad s1 s2 false) s = done (x &&& y) ∧ exec (.and g ad s1 s2 true) s = done ((x32 &&& y32).signExtend 64) ∧
     exec (.or g ad s1 s2 false) s = done (x ||| y) ∧ exec (.or g ad s1 s2 true) s = done ((x32 ||| y32).signExtend 64) ∧
     exec (.xor g ad s1 s2 false) s = done (x ^^^ y) ∧ exec (.xor g ad s1 s2 true) s = done ((x32 ^^^ y32).signExtend 64) ∧
     exec (.shl g ad s1 s2 false) s = done (x <<< (y.toNat % 64)) ∧
     exec (.shl g ad s1 s2 true) s = done ((x32 <<< (y.toNat % 32)).signExtend 64) ∧
     exec (.shr g ad s1 s2 false) s = done (x >>> (y.toNat % 64)) ∧
     exec (.shr g ad s1 s2 true) s = done ((x32 >>> (y.toNat % 32)).signExtend 64) ∧
     exec (.sra g ad s1 s2 false) s = done (x.sshiftRight (y.toNat % 64)) ∧
     exec (.sra g ad s1 s2 true) s = done ((x32.sshiftRight (y.toNat % 32)).signExtend 64))

/-- R54, R341, R353, R372: quotient, remainder, minimum and maximum. A zero divisor gives all ones as quotient and the dividend as
remainder, without a trap; the most negative value by −1 gives itself and 0. R54: sums, differences, products and shifts wrap
modulo the operand width. R336, R368: CLZ counts the zero bits above the highest set bit, POPC the set bits, of 64 bits or of the
low 32. -/
def Obligations.DivisionOrderAndBitCountResults : Prop :=
  (∀ (g : Gd) (ad : BitVec 6) (s1 : Src) (w : Bool) (s : State), Steady s → guardHolds s.src.regs g = true →
    let n : Nat := if w then 32 else 64
    let x : Nat := (s.rd .a s1).toNat % 2 ^ n
    (∃ c, exec (.clz g ad s1 w) s = .next (s.result ad (BitVec.ofNat 64 c) [s1]) ∧ c ≤ n ∧ x < 2 ^ (n - c) ∧
      (c < n → 2 ^ (n - c - 1) ≤ x)) ∧
    exec (.popc g ad s1 w) s = .next (s.result ad (BitVec.ofNat 64 ((List.range n).countP fun i => x.testBit i)) [s1])) ∧
  (∀ (g : Gd) (ad : BitVec 6) (s1 s2 : Src) (s : State), Steady s → guardHolds s.src.regs g = true →
    let x := s.rd .a s1; let y := s.rd .a s2
    let x32 : W32 := x.setWidth 32; let y32 : W32 := y.setWidth 32
    let done (v : W64) : Host.Outcome State Fault Refusal := .next (s.result ad v [s1, s2])
    exec (.div g ad s1 s2 false false) s = done (if y = 0 then BitVec.allOnes 64 else x.udiv y) ∧
    exec (.div g ad s1 s2 false true) s = done (if y = 0 then BitVec.allOnes 64 else x.sdiv y) ∧
    exec (.div g ad s1 s2 true false) s = done (if y32 = 0 then BitVec.allOnes 64 else (x32.udiv y32).signExtend 64) ∧
    exec (.div g ad s1 s2 true true) s = done (if y32 = 0 then BitVec.allOnes 64 else (x32.sdiv y32).signExtend 64) ∧
    exec (.rem g ad s1 s2 false false) s = done (if y = 0 then x else x.umod y) ∧
    exec (.rem g ad s1 s2 false true) s = done (if y = 0 then x else x.srem y) ∧
    exec (.rem g ad s1 s2 true false) s = done ((if y32 = 0 then x32 else x32.umod y32).signExtend 64) ∧
    exec (.rem g ad s1 s2 true true) s = done ((if y32 = 0 then x32 else x32.srem y32).signExtend 64) ∧
    exec (.max g ad s1 s2 false true) s = done (if x.slt y then y else x) ∧
    exec (.max g ad s1 s2 false false) s = done (if x.ult y then y else x) ∧
    exec (.max g ad s1 s2 true true) s = done ((if x32.slt y32 then y32 else x32).signExtend 64) ∧
    exec (.max g ad s1 s2 true false) s = done ((if x32.ult y32 then y32 else x32).signExtend 64) ∧
    exec (.min g ad s1 s2 false true) s = done (if y.slt x then y else x) ∧
    exec (.min g ad s1 s2 false false) s = done (if y.ult x then y else x) ∧
    exec (.min g ad s1 s2 true true) s = done ((if y32.slt x32 then y32 else x32).signExtend 64) ∧
    exec (.min g ad s1 s2 true false) s = done ((if y32.ult x32 then y32 else x32).signExtend 64) ∧
    (x = BitVec.intMin 64 → y = -1 → exec (.div g ad s1 s2 false true) s = done x ∧ exec (.rem g ad s1 s2 false true) s = done 0) ∧
    (x32 = BitVec.intMin 32 → y32 = -1 →
      exec (.div g ad s1 s2 true true) s = done (x32.signExtend 64) ∧ exec (.rem g ad s1 s2 true true) s = done 0) ∧
    exec (.add g ad s1 s2 false) s = done (BitVec.ofNat 64 ((x.toNat + y.toNat) % 2 ^ 64)) ∧
    exec (.sub g ad s1 s2 false) s = done (BitVec.ofInt 64 (((x.toNat : Int) - y.toNat) % 2 ^ 64)) ∧
    exec (.mul g ad s1 s2 false) s = done (BitVec.ofNat 64 (x.toNat * y.toNat % 2 ^ 64)) ∧
    exec (.shl g ad s1 s2 false) s = done (BitVec.ofNat 64 (x.toNat * 2 ^ (y.toNat % 64) % 2 ^ 64)) ∧
    exec (.add g ad s1 s2 true) s = done ((BitVec.ofNat 32 ((x32.toNat + y32.toNat) % 2 ^ 32)).signExtend 64) ∧
    exec (.sub g ad s1 s2 true) s = done ((BitVec.ofInt 32 (((x32.toNat : Int) - y32.toNat) % 2 ^ 32)).signExtend 64) ∧
    exec (.mul g ad s1 s2 true) s = done ((BitVec.ofNat 32 (x32.toNat * y32.toNat % 2 ^ 32)).signExtend 64) ∧
    exec (.shl g ad s1 s2 true) s = done ((BitVec.ofNat 32 (x32.toNat * 2 ^ (y32.toNat % 32) % 2 ^ 32)).signExtend 64))

/-- R337, R344, R374: CMP by its condition, the guard logic, and SEL; a guard source is negated by its own bit. -/
def Obligations.GuardResults : Prop :=
  ∀ (g : Gd) (gd : BitVec 4) (ad : BitVec 6) (s1 s2 : Src) (n1 n2 : Bool) (g1 g2 : BitVec 4) (s : State), Steady s →
    guardHolds s.src.regs g = true →
    let x := s.rd .a s1; let y := s.rd .a s2
    let x32 : W32 := x.setWidth 32; let y32 : W32 := y.setWidth 32
    let p := s.src.regs.guard g1 != n1; let q := s.src.regs.guard g2 != n2
    let done (b : Bool) : Host.Outcome State Fault Refusal := .next (s.guardResult gd b [s1, s2])
    exec (.cmp g gd s1 s2 0 false) s = done (x == y) ∧ exec (.cmp g gd s1 s2 1 false) s = done (x != y) ∧
    exec (.cmp g gd s1 s2 2 false) s = done (decide (x.toInt < y.toInt)) ∧
    exec (.cmp g gd s1 s2 3 false) s = done (decide (y.toInt ≤ x.toInt)) ∧
    exec (.cmp g gd s1 s2 4 false) s = done (decide (x.toNat < y.toNat)) ∧
    exec (.cmp g gd s1 s2 5 false) s = done (decide (y.toNat ≤ x.toNat)) ∧
    exec (.cmp g gd s1 s2 0 true) s = done (x32 == y32) ∧ exec (.cmp g gd s1 s2 1 true) s = done (x32 != y32) ∧
    exec (.cmp g gd s1 s2 2 true) s = done (decide (x32.toInt < y32.toInt)) ∧
    exec (.cmp g gd s1 s2 3 true) s = done (decide (y32.toInt ≤ x32.toInt)) ∧
    exec (.cmp g gd s1 s2 4 true) s = done (decide (x32.toNat < y32.toNat)) ∧
    exec (.cmp g gd s1 s2 5 true) s = done (decide (y32.toNat ≤ x32.toNat)) ∧
    exec (.gand g gd n1 g1 n2 g2) s = .next (s.guardResult gd (p && q) []) ∧
    exec (.gor g gd n1 g1 n2 g2) s = .next (s.guardResult gd (p || q) []) ∧
    exec (.gnot g gd n1 g1) s = .next (s.guardResult gd (!p) []) ∧
    exec (.sel g ad n1 g1 s1 s2) s = .next (s.result ad (if p then x else y) [s1, s2])

/-- R63, R80, R325: what a result of an A slot leaves. Its register holds the value, or 0 when a marked source is that register; a
marked source reads 0; every other 64-bit register of the stream, every guard, and everything else of the state stays. A guard
result writes one guard, and none when it names g0, which reads 1. R63, R80, R83, R383: what a result of a V slot leaves. Its
register holds the vector, or 0 when a marked source is that register; a marked source reads 0; every other v register stays.
The first write of a register after a checkpoint keeps its old contents as the before-image. Nothing else of the state changes. -/
def Obligations.SlotResultsAndMarks : Prop :=
  (∀ (ad : BitVec 6) (gd : BitVec 4) (b : Bool) (v : W64) (l : List Src) (s : State),
     let marked (f : RFile) (n : Nat) : Bool := l.any fun x => Marks x f n
     let old := s.me.regs
     (∃ r, OnlyRegs r s (s.result ad v l) ∧
       r = { old with a := r.a, c := r.c } ∧
       (∀ f n, marked f n = true → r.get f n = 0) ∧
       (marked .a ad.toNat = false → r.get .a ad.toNat = v) ∧
       (∀ f n, marked f n = false → ¬ (f = .a ∧ n = ad.toNat) → r.get f n = old.get f n)) ∧
     (∃ r, OnlyRegs r s (s.guardResult gd b l) ∧
       r = { old with a := r.a, c := r.c, g := r.g } ∧
       (∀ f n, marked f n = true → r.get f n = 0) ∧
       (∀ f n, marked f n = false → r.get f n = old.get f n) ∧
       (∀ n, r.guard n = if n = 0 then true else if n = gd then b else old.guard n))) ∧
  (∀ (vd : BitVec 10) (v : VReg) (l : List VSrc) (s : State),
     let marked (n : Nat) : Bool := l.any fun x => x.mark && x.r.toNat == n
     let t := s.vresult vd v l
     let c := s.core s.cur.core
     let d := t.core s.cur.core
     t = s.setCore s.cur.core d ∧
     d = { putStream c s.cur.strm { s.me with beforeV := t.me.beforeV } with v := d.v } ∧
     (∀ n, d.v.get n 0 = if marked n then 0 else if n = vd.toNat then v else c.v.get n 0) ∧
     ∀ n, (t.me.beforeV.find? fun p => p.1 == n).map (·.2) =
       match s.me.beforeV.find? fun p => p.1 == n with
       | some p => some p.2
       | none => if n = vd.toNat ∨ marked n = true then some (c.v.get n 0) else none)

/-- R80, R347: LD reads 1, 2, 4 or 8 bytes, little-endian, zero-extended or sign-extended. R80, R82, R84, R376: ST withholds the low
bytes of its source at the address that it computes; then the marks land. The stream reads the bytes stored there, and every
other byte of every scratchpad and of device memory reads as before. -/
def Obligations.ScalarLoadsAndStores : Prop :=
  (∀ (g : Gd) (ad : BitVec 6) (sb : Src) (sz : BitVec 2) (off : BitVec 18) (s : State),
     let a : Int := (s.rd .a sb).toNat + off.toInt
     let n : Nat := 2 ^ sz.toNat
     Steady s → guardHolds s.src.regs g = true → 0 ≤ a → a + n ≤ 0x1800000 → a % n = 0 →
     s.src.regs.phase.sets = none → atomHit s.me.atoms a.toNat n = false →
     let x : Nat := leNat (spadRead s.view s.cur.strm a.toNat n)
     exec (.ld g ad sb sz false off) s = .next (s.result ad (BitVec.ofNat 64 x) [sb]) ∧
     exec (.ld g ad sb sz true off) s = .next (s.result ad ((BitVec.ofNat (8 * n) x).signExtend 64) [sb])) ∧
  (∀ (g : Gd) (sd sb : Src) (sz : BitVec 2) (off : W16) (s : State),
     let a : Int := stAddr s sb off
     let n : Nat := 2 ^ sz.toNat
     Steady s → guardHolds s.src.regs g = true → 0 ≤ a → a + n ≤ 0x1800000 → a % n = 0 →
     s.src.regs.phase.sets = none → atomHit s.me.atoms a.toNat n = false →
     lineCount (withhold s.me.withheld a.toNat (List.replicate n 0)) ≤ 1024 →
     ∃ t, exec (.st g sd sb sz off) s = .next t ∧
       spadRead (t.core s.cur.core) s.cur.strm a.toNat n = leBytes n (s.rd .a sd).toNat ∧
       SameBytesBut a.toNat n s t ∧
       t.cur = s.cur ∧ t.frame = s.frame ∧ (t.core s.cur.core).v = (s.core s.cur.core).v ∧
       t.me.regs = { s.me.regs with a := t.me.regs.a, c := t.me.regs.c } ∧
       ∀ f m, t.me.regs.get f m = if Marks sd f m || Marks sb f m then 0 else s.me.regs.get f m)

/-- R63, R64, R396: XFR copies 64 bits between two registers of the private files; a mark then zeroes the source. R80, R396: XFR to
and from elements of v and q registers. The source is element `e` of v(ns), of q(ns), or a register of a private file; the
destination likewise. Only the element written changes in its register; a mark zeroes the source element alone. -/
def Obligations.RegisterTransfers : Prop :=
  (∀ (g : Gd) (df sf : BitVec 4) (di si : BitVec 10) (l : Bool) (fd fs : RFile) (nd ns : Nat) (s : State),
     Runs (.xfr g df di sf si l 0) s → axReg df di 0 = [⟨fd, nd, none⟩] → axReg sf si 0 = [⟨fs, ns, none⟩] →
     ∃ r, exec (.xfr g df di sf si l 0) s = .next (s.updRegs s.cur fun _ => r) ∧
       ∀ f n, r.get f n = if l = true ∧ f = fs ∧ n = ns then 0
         else if f = fd ∧ n = nd then s.src.regs.get fs ns else s.me.regs.get f n) ∧
  (∀ (g : Gd) (df sf : BitVec 4) (di si : BitVec 10) (l : Bool) (el : BitVec 7) (src dst : RegId) (s : State),
     Runs (.xfr g df di sf si l el) s → axReg df di el = [dst] → axReg sf si el = [src] →
     let e := el.toNat
     let c := s.core s.cur.core
     let value : W64 := match src.file with
       | .v => elem (s.view.v.get src.ix 0) e 64
       | .q => elem (s.src.q.get src.ix 0) e 64
       | f => s.src.regs.get f src.ix
     ∃ t, exec (.xfr g df di sf si l el) s = .next t ∧
       (∀ n k, elem ((t.core s.cur.core).v.get n 0) k 64 =
         if l = true ∧ src = ⟨.v, n, some k⟩ ∧ k < 128 then 0 else if dst = ⟨.v, n, some k⟩ ∧ k < 128 then value
         else elem (c.v.get n 0) k 64) ∧
       (∀ n k, elem (t.me.q.get n 0) k 64 =
         if l = true ∧ src = ⟨.q, n, some k⟩ ∧ k < 64 then 0 else if dst = ⟨.q, n, some k⟩ ∧ k < 64 then value
         else elem (s.me.q.get n 0) k 64) ∧
       ∀ f n, t.me.regs.get f n = if l = true ∧ src = ⟨f, n, none⟩ then 0
         else if dst = ⟨f, n, none⟩ then value else s.me.regs.get f n)

/-! ### The V and L slots -/

/-- R384: the integer forms, lane by lane on 32 bits. VT 0 reads lanes as signed, VT 1 as unsigned. R49, R384, R389: the FP32 forms,
lane by lane: the exact value of the operation on the values of the lanes, rounded once to FP32; minimum and maximum choose the
operand that is no NaN, and −0 lies below +0. VEXP2, VRCP and VRSQ give the model's f32Exp2, f32Rcp and f32Rsq, by which it computes the
value of R389; f32Exp2 bounds it by a series (log 13), so these three clauses are the model's. -/
def Obligations.VectorArithmeticLanes : Prop :=
  (∀ (g : Gd) (vd : BitVec 10) (va vb : VSrc) (vt : BitVec 3) (s : State), vt = 0 ∨ vt = 1 →
     let x (k : Nat) : W32 := elem (s.view.v.get va.r.toNat 0) k 32
     let y (k : Nat) : W32 := elem (s.view.v.get vb.r.toNat 0) k 32
     let z (k : Nat) : W32 := elem (s.view.v.get vd.toNat 0) k 32
     let less (a b : W32) : Bool := if vt = 1 then a.ult b else a.slt b
     let gives (i : Instr) (marks : List VSrc) (f : Nat → W32) : Prop := Runs i s →
       ∃ v, exec i s = .next (s.vresult vd v marks) ∧ ∀ k < 256, elem v k 32 = f k
     gives (.vadd g vd va vb vt) [va, vb] (fun k => x k + y k) ∧
     gives (.vsub g vd va vb vt) [va, vb] (fun k => x k - y k) ∧
     gives (.vmul g vd va vb vt) [va, vb] (fun k => x k * y k) ∧
     gives (.vfma g vd va vb vt) [va, vb] (fun k => x k * y k + z k) ∧
     gives (.vmin g vd va vb vt) [va, vb] (fun k => if less (y k) (x k) then y k else x k) ∧
     gives (.vmax g vd va vb vt) [va, vb] (fun k => if less (x k) (y k) then y k else x k) ∧
     gives (.vclamp g vd va vb vt) [va, vb] (fun k =>
       let m := if less (z k) (x k) then x k else z k
       if less (y k) m then y k else m) ∧
     gives (.vshl g vd va vb vt) [va, vb] (fun k => x k <<< ((y k).toNat % 32)) ∧
     gives (.vshr g vd va vb vt) [va, vb] (fun k =>
       if vt = 1 then x k >>> ((y k).toNat % 32) else (x k).sshiftRight ((y k).toNat % 32)) ∧
     gives (.vand g vd va vb 0) [va, vb] (fun k => x k &&& y k) ∧
     gives (.vor g vd va vb 0) [va, vb] (fun k => x k ||| y k) ∧
     gives (.vxor g vd va vb 0) [va, vb] (fun k => x k ^^^ y k) ∧
     gives (.vabs g vd va 0) [va] (fun k => if (x k).msb then -x k else x k) ∧
     gives (.vmov g vd va 0) [va] x) ∧
  (∀ (g : Gd) (vd : BitVec 10) (va vb : VSrc) (s : State),
     let x (k : Nat) : W32 := elem (s.view.v.get va.r.toNat 0) k 32
     let y (k : Nat) : W32 := elem (s.view.v.get vb.r.toNat 0) k 32
     let z (k : Nat) : W32 := elem (s.view.v.get vd.toNat 0) k 32
     let gives (i : Instr) (marks : List VSrc) (f : Nat → W32) : Prop := Runs i s →
       ∃ v, exec i s = .next (s.vresult vd v marks) ∧ ∀ k < 256, elem v k 32 = f k
     let least (a b : W32) : W32 := if f32 a = .nan then (if f32 b = .nan then 0x7FC00000 else b)
       else if f32 b = .nan then a else if ltSigned (f32 b) (f32 a) then b else a
     let most (a b : W32) : W32 := if f32 a = .nan then (if f32 b = .nan then 0x7FC00000 else b)
       else if f32 b = .nan then a else if ltSigned (f32 a) (f32 b) then b else a
     gives (.vadd g vd va vb 2) [va, vb] (fun k => toF32 ((f32 (x k)).add (f32 (y k)))) ∧
     gives (.vsub g vd va vb 2) [va, vb] (fun k => toF32 ((f32 (x k)).add (f32 (y k)).negate)) ∧
     gives (.vmul g vd va vb 2) [va, vb] (fun k => toF32 ((f32 (x k)).mul (f32 (y k)))) ∧
     gives (.vfma g vd va vb 2) [va, vb] (fun k => toF32 (((f32 (x k)).mul (f32 (y k))).add (f32 (z k)))) ∧
     gives (.vmin g vd va vb 2) [va, vb] (fun k => least (x k) (y k)) ∧
     gives (.vmax g vd va vb 2) [va, vb] (fun k => most (x k) (y k)) ∧
     gives (.vclamp g vd va vb 2) [va, vb] (fun k => least (most (z k) (x k)) (y k)) ∧
     gives (.vabs g vd va 2) [va] (fun k => if f32 (x k) = .nan then 0x7FC00000 else x k &&& 0x7FFFFFFF) ∧
     gives (.vexp2 g vd va 2) [va] (fun k => f32Exp2 (x k)) ∧
     gives (.vrcp g vd va 2) [va] (fun k => f32Rcp (x k)) ∧
     gives (.vrsq g vd va 2) [va] (fun k => f32Rsq (x k)))

/-- R385, R387, R388, R393: the forms that move lanes: broadcast, select and compact under a lane guard, permute, and convert (an
element of the source format to one of the destination format, as many as the wider of the two fits). That VCVT gives −0 for a nonzero
negative value that rounds to zero is the model's (log 54). -/
def Obligations.VectorMoves : Prop :=
  ∀ (g : Gd) (vd : BitVec 10) (va vb : VSrc) (vg : BitVec 3) (n : Bool) (com : BitVec 8) (imm : W16) (frm dst : BitVec 4)
    (ff fd : Fmt) (s : State), Fmt.ofCode frm = some ff → Fmt.ofCode dst = some fd →
    let x (k : Nat) : W32 := elem (s.view.v.get va.r.toNat 0) k 32
    let y (k : Nat) : W32 := elem (s.view.v.get vb.r.toNat 0) k 32
    let on (k : Nat) : Bool := flag (s.src.regs.vg.get vg.toNat 0) k != n
    let chosen := (List.range 256).filter on
    let gives (i : Instr) (marks : List VSrc) (f : Nat → W32) : Prop := Runs i s →
      ∃ v, exec i s = .next (s.vresult vd v marks) ∧ ∀ k < 256, elem v k 32 = f k
    gives (.vbcast g vd (.com com)) [] (fun _ => (s.src.regs.get .c (com.toNat % 32)).setWidth 32) ∧
    gives (.vbcast g vd (.imm false imm)) [] (fun _ => imm.signExtend 32) ∧
    gives (.vbcast g vd (.imm true imm)) [] (fun _ => s.frame.lit.getD 0) ∧
    gives (.vsel g vd vg n va vb) [va, vb] (fun k => if on k then x k else y k) ∧
    gives (.vcompact g vd vg n va) [va] (fun k => (chosen[k]?.map x).getD 0) ∧
    gives (.vperm g vd va vb 0) [va, vb] (fun k => x ((y k).toNat % 256)) ∧
    (Runs (.vcvt g vd va frm dst) s → ∃ v, exec (.vcvt g vd va frm dst) s = .next (s.vresult vd v [va]) ∧
      ∀ k, elem v k fd.width = if k < 1024 / max ff.size fd.size then
        BitVec.ofNat fd.width (convert ff fd (elem (s.view.v.get va.r.toNat 0) k ff.width).toNat) else 0)

/-- R386, R394: VCMP sets bit k of its lane guard when the condition holds in lane k; VRED puts the sum, maximum or minimum of the
256 lanes into lane 0 and zeroes the others; VSCAN puts the reduction of lanes 0 to k into lane k. The FP32 forms: a comparison with
a NaN is false but for .NE, and −0 equals +0; a sum is the exact sum of the lanes, rounded once; an extreme is that of the lanes that are
no NaN, with −0 below +0, or the canonical NaN when every lane is NaN. -/
def Obligations.VectorComparesAndReductions : Prop :=
  ∀ (g : Gd) (vd : BitVec 10) (vgd : BitVec 3) (va vb : VSrc) (vt : BitVec 3) (s : State),
    let x (k : Nat) : W32 := elem (s.view.v.get va.r.toNat 0) k 32
    let y (k : Nat) : W32 := elem (s.view.v.get vb.r.toNat 0) k 32
    let less (a b : W32) : Bool := if vt = 1 then a.ult b else a.slt b
    let big (a b : W32) : W32 := if less a b then b else a
    let small (a b : W32) : W32 := if less b a then b else a
    let upTo (f : W32 → W32 → W32) (k : Nat) : W32 := ((List.range k).map fun j => x (j + 1)).foldl f (x 0)
    let cmp (cc : BitVec 3) (f : W32 → W32 → Bool) : Prop := Runs (.vcmp g vgd va vb cc vt) s →
      ∃ m : LaneMask, (∀ k < 256, flag m k = f (x k) (y k)) ∧ exec (.vcmp g vgd va vb cc vt) s =
        .next ((s.updRegs s.cur fun r => { r with vg := r.vg.set vgd.toNat m 0 }).markV va |>.markV vb)
    let red (op : BitVec 3) (f : W32 → W32 → W32) : Prop :=
      (Runs (.vred g vd va op vt) s → ∃ v, exec (.vred g vd va op vt) s = .next (s.vresult vd v [va]) ∧
        ∀ k < 256, elem v k 32 = if k = 0 then upTo f 255 else 0) ∧
      (Runs (.vscan g vd va op vt) s → ∃ v, exec (.vscan g vd va op vt) s = .next (s.vresult vd v [va]) ∧
        ∀ k < 256, elem v k 32 = upTo f k)
    let redF (op : BitVec 3) (f : Nat → W32) : Prop :=
      (Runs (.vred g vd va op vt) s → ∃ v, exec (.vred g vd va op vt) s = .next (s.vresult vd v [va]) ∧
        ∀ k < 256, elem v k 32 = if k = 0 then f 255 else 0) ∧
      (Runs (.vscan g vd va op vt) s → ∃ v, exec (.vscan g vd va op vt) s = .next (s.vresult vd v [va]) ∧
        ∀ k < 256, elem v k 32 = f k)
    let num (a b : W32) : Bool := f32 a != .nan && f32 b != .nan
    let lt (a b : W32) : Bool := num a b && Sys2Proof.Num.lt (f32 a) (f32 b)
    let eq (a b : W32) : Bool := num a b && !lt a b && !lt b a
    let sum (k : Nat) : W32 := toF32 (((List.range k).map fun j => f32 (x (j + 1))).foldl Sys2Proof.Num.add (f32 (x 0)))
    let canon (a : W32) : W32 := if f32 a = .nan then 0x7FC00000 else a
    let most (a b : W32) : W32 := if f32 a = .nan then b else if f32 b = .nan then a else if ltSigned (f32 a) (f32 b) then b else a
    let least (a b : W32) : W32 := if f32 a = .nan then b else if f32 b = .nan then a else if ltSigned (f32 b) (f32 a) then b else a
    (vt = 0 ∨ vt = 1 →
      cmp 0 (fun a b => a == b) ∧ cmp 1 (fun a b => a != b) ∧ cmp 2 less ∧ cmp 3 (fun a b => !less a b) ∧
      cmp 4 (fun a b => a.ult b) ∧ cmp 5 (fun a b => !a.ult b) ∧
      red 0 (fun a b => a + b) ∧ red 1 big ∧ red 2 small) ∧
    (vt = 2 →
      cmp 0 eq ∧ cmp 1 (fun a b => !eq a b) ∧ cmp 2 lt ∧ cmp 3 (fun a b => num a b && !lt a b) ∧
      redF 0 sum ∧ redF 1 (fun k => canon (upTo most k)) ∧ redF 2 (fun k => canon (upTo least k)))

/-- R103, R248, R390, R392: the loads. VLD fills its register with 1024 bytes, VLDE with the expanded record, VLDX lane by lane; a
lane whose index is 0x8000_0000 keeps its element. R82, R84, R390, R392: the stores. VST withholds the 1024 bytes of its
register at the address that it computes; VSTX stores lane by lane, and of two lanes at one address the later wins. Every other
byte reads as before; the marked v registers apart, no register changes. -/
def Obligations.VectorLoadsAndStores : Prop :=
  (∀ (g : Gd) (v vi : BitVec 10) (base : BitVec 8) (ct : BitVec 6) (off : BitVec 11) (li : Bool) (s : State),
     let b : Int := if base = 0 then 0 else (s.src.regs.get .c (base.toNat % 32)).toNat
     let a : Nat := (b + 64 * off.toInt).toNat
     let byte (x : Nat) : Byte := (spadRead s.view s.cur.strm x 1).headD 0
     let word (x n : Nat) : Nat := leNat (spadRead s.view s.cur.strm x n)
     let e : Nat := 2 ^ (word a 4 / 2 ^ 29 % 4)
     let on (k : Nat) : Bool := (word (a + 4) (128 / e)).testBit k
     let before (k : Nat) : Nat := (List.range k).countP on
     let ix (k : Nat) : W32 := elem (s.view.v.get vi.toNat 0) k 32
     (Runs (.vld g v base ct off) s → ∃ x, exec (.vld g v base ct off) s = .next (s.vresult v x []) ∧
       ∀ k < 1024, elem x k 8 = byte (a + k)) ∧
     (Runs (.vlde g v base ct off) s → ∃ x, exec (.vlde g v base ct off) s = .next (s.vresult v x []) ∧
       ∀ k < 1024 / e, ∀ j < e, elem x (k * e + j) 8 =
         if on k then byte (a + 4 + 128 / e + before k * e + j) else 0) ∧
     (Runs (.vldx g v base ct vi li) s → ∃ x, exec (.vldx g v base ct vi li) s = .next (s.vresult v x [⟨li, vi⟩]) ∧
       ∀ k < 256, elem x k 32 = if ix k = 0x80000000 then elem (s.view.v.get v.toNat 0) k 32
         else BitVec.ofNat 32 (word (b + (ix k).toInt).toNat 4))) ∧
  (∀ (g : Gd) (v vi : BitVec 10) (base : BitVec 8) (ct : BitVec 6) (off : BitVec 11) (l li : Bool) (s : State),
     let b : Int := if base = 0 then 0 else (s.src.regs.get .c (base.toNat % 32)).toNat
     let a : Nat := (b + 64 * off.toInt).toNat
     let old := s.view.v.get v.toNat 0
     let ix (k : Nat) : W32 := elem (s.view.v.get vi.toNat 0) k 32
     let at' (k : Nat) : Nat := (b + (ix k).toInt).toNat
     let covers (x k : Nat) : Bool := ix k != 0x80000000 && decide (at' k ≤ x) && decide (x < at' k + 4)
     let holds (t : State) (x : Nat) : Byte := (spadRead (t.core s.cur.core) s.cur.strm x 1).headD 0
     let marked (t : State) (l : List (Bool × BitVec 10)) : Prop :=
       t.me.regs = s.me.regs ∧ t.me.q = s.me.q ∧ t.cur = s.cur ∧ t.frame = s.frame ∧
       ∀ n, (t.core s.cur.core).v.get n 0 =
         if l.any (fun p => p.1 && p.2.toNat == n) then 0 else (s.core s.cur.core).v.get n 0
     (Runs (.vst g v base ct l off) s → ∃ t, exec (.vst g v base ct l off) s = .next t ∧
       (∀ k < 1024, holds t (a + k) = elem old k 8) ∧ SameBytesBut a 1024 s t ∧ marked t [(l, v)]) ∧
     (Runs (.vstx g v base ct vi li l) s → ∃ t, exec (.vstx g v base ct vi li l) s = .next t ∧
       (∀ x, holds t x = match (List.range 256).reverse.find? (covers x) with
         | some k => elem (elem old k 32) (x - at' k) 8
         | none => holds s x) ∧
       (∀ c w x, (c = s.cur.core ∧ w = s.cur.strm) ∨ spadRead (t.core c) w x 1 = spadRead (s.core c) w x 1) ∧
       t.mem = s.mem ∧ marked t [(l, v), (li, vi)]))

/-- R173, R174: AADD and AADDF wait with their lanes until the next commit; no byte and no register changes at issue. A lane whose
index is 0x8000_0000 is skipped. R174: at its commit a held AADD adds each lane's data to the word at its address, lane by lane,
modulo the word. R173, R175: ASWAP and ACAS act at issue on the committed scratchpad, lane by lane in ascending order, each on the
word that the lanes before it left; V receives the old words, skipped lanes keep their elements, and a checkpoint is asked for at the
boundary after the bundle. -/
def Obligations.ScratchpadAtomicsWaitOrAct : Prop :=
  (∀ (g : Gd) (v vi : BitVec 10) (base : BitVec 8) (ct : BitVec 6) (ty : BitVec 2) (s : State),
     let b : Int := if base = 0 then 0 else (s.src.regs.get .c (base.toNat % 32)).toNat
     let ix (k : Nat) : W32 := elem (s.view.v.get vi.toNat 0) k 32
     let lanes (n w : Nat) : List (Nat × W64) := ((List.range n).filter fun k => ix k != 0x80000000).map fun k =>
       ((b + (ix k).toInt).toNat, BitVec.ofNat 64 (elem (s.view.v.get v.toNat 0) k w).toNat)
     let waits (h : HeldAtomic) : Host.Outcome State Fault Refusal :=
       .next (s.updStream s.cur fun st => { st with atoms := st.atoms ++ [h] })
     (Runs (.aadd g v base ct vi 0) s → exec (.aadd g v base ct vi 0) s = waits ⟨none, 4, lanes 256 32⟩) ∧
     (Runs (.aadd g v base ct vi 1) s → exec (.aadd g v base ct vi 1) s = waits ⟨none, 8, lanes 128 64⟩) ∧
     (Runs (.aaddf g v base ct vi ty) s → exec (.aaddf g v base ct vi ty) s = waits ⟨some ty, 32, lanes 256 32⟩)) ∧
  (∀ (w : Nat) (lanes : List (Nat × W64)) (m : SMap Byte), (∀ p ∈ lanes, p.1 % w = 0) → 0 < w → ∀ a, a % w = 0 →
     readLE (applyAtomic m ⟨none, w, lanes⟩) a w =
       (readLE m a w + ((lanes.filter fun p => p.1 == a).map fun p => p.2.toNat).sum) % 2 ^ (8 * w)) ∧
  (∀ (ty : BitVec 2) (f : Fmt) (lanes : List (Nat × W64)) (m : SMap Byte), [Fmt.fp32, .bf16, .fp16][ty.toNat]? = some f →
     (∀ p ∈ lanes, p.1 % 32 = 0) → ∀ a, a % 32 = 0 →
     readBytes (applyAtomic m ⟨some ty, 32, lanes⟩) a 32 =
       ((lanes.filter fun p => p.1 == a).map fun p => Sys2Proof.Num.decode f (p.2.toNat % 2 ^ f.width)).foldl cellSum (readBytes m a 32)) ∧
  (∀ (g : Gd) (v vi : BitVec 10) (base : BitVec 8) (ct : BitVec 6) (ty : BitVec 2) (s : State), ty = 0 ∨ ty = 1 →
    let b : Int := if base = 0 then 0 else (s.src.regs.get .c (base.toNat % 32)).toNat
    let n : Nat := if ty = 0 then 256 else 128
    let w : Nat := if ty = 0 then 4 else 8
    let ix (k : Nat) : W32 := elem (s.view.v.get vi.toNat 0) k 32
    let at' (k : Nat) : Nat := (b + (ix k).toInt).toNat
    let data (r k : Nat) : Nat := (elem (s.view.v.get r 0) k (8 * w)).toNat
    let word (m : Nat → Byte) (a : Nat) : Nat := leNat ((List.range w).map fun j => m (a + j))
    let put (m : Nat → Byte) (a x : Nat) : Nat → Byte := fun y =>
      if a ≤ y ∧ y < a + w then BitVec.ofNat 8 (x / 2 ^ (8 * (y - a))) else m y
    let acts (i : Instr) (new : Nat → Nat → Option Nat) : Prop := Runs i s →
      ∃ (t : State) (m : Nat → Nat → Byte), exec i s = .next t ∧
        (∀ x, m 0 x = (s.core s.cur.core).spad.get x 0) ∧
        (∀ k < n, m (k + 1) =
          if ix k = 0x80000000 then m k else
            match new k (word (m k) (at' k)) with
            | some x => put (m k) (at' k) x
            | none => m k) ∧
        (∀ x, (t.core s.cur.core).spad.get x 0 = m n x) ∧
        (∀ k < n, elem ((t.core s.cur.core).v.get v.toNat 0) k (8 * w) =
          BitVec.ofNat (8 * w) (if ix k = 0x80000000 then data v.toNat k else word (m k) (at' k))) ∧
        (∀ r, r ≠ v.toNat → (t.core s.cur.core).v.get r 0 = (s.core s.cur.core).v.get r 0) ∧
        t.me.ckpt.any CkptReq.swap = true ∧ t.me.regs = s.me.regs ∧ t.me.q = s.me.q ∧ t.mem = s.mem
    acts (.aswap g v base ct vi ty) (fun k _ => some (data v.toNat k)) ∧
    acts (.acas g v base ct vi ty) (fun k old => if old = data v.toNat k then some (data (v.toNat + 1) k) else none))

/-- R172: the tag table. TAGL gives the lowest valid slot that holds the lane's tag, all ones when none does; TAGW writes the tag of its
lane into the slot that the lane names and makes it valid, TAGI clears VALID alone; a later lane wins, and a slot number from 1024 is
skipped. -/
def Obligations.TagTableResults : Prop :=
  ∀ (g : Gd) (v1 v2 : BitVec 10) (ct : BitVec 6) (s : State),
    let x (k : Nat) : W64 := elem (s.view.v.get v1.toNat 0) k 64
    let y (k : Nat) : W64 := elem (s.view.v.get v2.toNat 0) k 64
    let slot (r : Regs) (n : Nat) : TagEntry := r.tags.get n {}
    let last (n : Nat) : Option Nat := (List.range 128).reverse.find? fun k => (x k).toNat == n
    (Runs (.tagl g v1 v2 ct) s → SMap.canon {} s.src.regs.tags = true →
      ∃ z, exec (.tagl g v1 v2 ct) s = .next (s.vresult v1 z []) ∧ ∀ k < 128,
        (∃ n, elem z k 64 = BitVec.ofNat 64 n ∧ slot s.src.regs n = ⟨true, y k⟩ ∧ ∀ j < n, slot s.src.regs j ≠ ⟨true, y k⟩) ∨
        (elem z k 64 = BitVec.allOnes 64 ∧ ∀ j, slot s.src.regs j ≠ ⟨true, y k⟩)) ∧
    (Runs (.tagw g v1 v2 ct) s → ∃ r : Regs, exec (.tagw g v1 v2 ct) s = .next (s.updRegs s.cur fun _ => r) ∧
      r = { s.me.regs with tags := r.tags } ∧
      ∀ n, slot r n = if 1024 ≤ n then slot s.me.regs n else
        match last n with | some k => ⟨true, y k⟩ | none => slot s.me.regs n) ∧
    (Runs (.tagi g v1 ct) s → ∃ r : Regs, exec (.tagi g v1 ct) s = .next (s.updRegs s.cur fun _ => r) ∧
      r = { s.me.regs with tags := r.tags } ∧
      ∀ n, slot r n = if n < 1024 ∧ (last n).isSome then { slot s.me.regs n with valid := false } else slot s.me.regs n)

/-! ### The K slot -/

/-- R70, R75, R77, R330, R333, R334, R373: the jumps. A taken BR or BRX pops every loop that excludes its target; CALL and RET pop
none; CALL leaves the address that the end check gives. Every hold and the open group end. -/
def Obligations.JumpResults : Prop :=
  ∀ (g : Gd) (off : W32) (kd : BitVec 4) (x : Src) (s : State),
    let old := s.me.regs
    let pc := s.src.regs.pc
    let near : W48 := pc + 2 * off.signExtend 48
    let far : W48 := (s.rd .k x).setWidth 48 &&& ~~~1
    let kept (target : W48) := s.src.regs.loops.dropWhile fun top => decide (target < top.start ∨ top.exit ≤ target)
    let zeroed (r : Regs) : Regs := if x.mark then r.put (x.reg .k).file (x.reg .k).ix 0 else r
    let goes (r : Regs) : Host.Outcome State Fault Refusal :=
      .next ((s.updStream s.cur fun st => { st with regs := { r with holds := {} }, groupR := [], groupW := [] }).setFrame
        { s.frame with taken := true, jumped := true })
    (Runs (.br g off) s → exec (.br g off) s = goes { old with pc := near, loops := kept near }) ∧
    (Runs (.brx g x) s → exec (.brx g x) s = goes (zeroed { old with pc := far, loops := kept far })) ∧
    (Runs (.call g kd off) s → ∃ back ls, (back, ls) = nextPC s.npc s.src.regs.loops ∧
      exec (.call g kd off) s = goes ({ old with pc := near, loops := ls }.put .k kd.toNat (back.setWidth 64))) ∧
    (Runs (.ret g x) s → exec (.ret g x) s = goes (zeroed { old with pc := far, loops := s.src.regs.loops }))

/-- R77: the end check. Every loop on top that ends at the address with its last iteration done is popped; a loop that ends there
with iterations left counts one down and starts over; else the next bundle follows. R76, R78, R350, R351: LOOP pushes its range
from the next bundle on; with a count of 0 it goes on as if its bundle ended at EXIT and ends the holds and the group. LEAVE
pops the top loop and ends them too. -/
def Obligations.LoopsPushEndAndLeave : Prop :=
  (∀ (after : W48) (ls : List LoopEntry),
     let rest := ls.dropWhile fun top => top.exit == after && top.count == 1
     nextPC after ls =
       match rest with
       | [] => (after, [])
       | top :: t => if top.exit = after then (top.start, { top with count := top.count - 1 } :: t) else (after, top :: t)) ∧
  (∀ (g : Gd) (n : LCount) (ex : BitVec 19) (s : State),
     let count : W32 := match n with | .imm c => c.setWidth 32 | .reg x => (s.rd .k x).setWidth 32
     let exit : W48 := s.src.regs.pc + 2 * ex.setWidth 48
     let zeroed (r : Regs) : Regs := match n with
       | .imm _ => r
       | .reg x => if x.mark then r.put (x.reg .k).file (x.reg .k).ix 0 else r
     let ended (r : Regs) : State :=
       s.updStream s.cur fun st => { st with regs := { r with holds := {} }, groupR := [], groupW := [] }
     (Runs (.loop g n ex) s → count ≠ 0 → exec (.loop g n ex) s = .next (s.updRegs s.cur fun r =>
       zeroed { r with loops := { count := count, exit := exit, start := s.npc } :: s.src.regs.loops })) ∧
     (Runs (.loop g n ex) s → count = 0 → ∃ pc ls, (pc, ls) = nextPC exit s.src.regs.loops ∧
       exec (.loop g n ex) s = .next ((ended (zeroed { s.me.regs with pc := pc, loops := ls })).setFrame
         { s.frame with taken := true, jumped := true })) ∧
     (Runs (.leave g) s → exec (.leave g) s = .next ((ended { s.me.regs with loops := s.src.regs.loops.tail }).setFrame
       { s.frame with taken := true })))

/-- R79, R108, R194, R355, R356: what MFS reads from each special register. -/
def Obligations.SpecialRegisterReads : Prop :=
  ∀ (g : Gd) (kd : BitVec 4) (l : LaunchInfo) (s : State), s.src.launch = some l →
    let core := s.core s.cur.core
    let owner := s.ctx l.ctx
    let sys := s.me.sys
    let r := s.src.regs
    let reads (sr : Nat) (v : W64) : Prop := Runs (.mfs g kd (BitVec.ofNat 12 sr)) s →
      exec (.mfs g kd (BitVec.ofNat 12 sr)) s = .next (s.updRegs s.cur fun r => r.put .k kd.toNat v)
    reads 0x000 core.cycle ∧ reads 0x001 (owner.rank.setWidth 64) ∧ reads 0x002 (BitVec.ofNat 64 l.gpos) ∧
    reads 0x003 (BitVec.ofNat 64 l.gsize) ∧ reads 0x004 (l.skew.setWidth 64) ∧ reads 0x005 r.dom ∧
    reads 0x006 (if l.det then 1 else 0) ∧ reads 0x007 sys.safemax ∧ reads 0x008 r.slack ∧ reads 0x009 owner.tdeleg ∧
    reads 0x00A r.fmtr ∧ reads 0x00B owner.contain ∧ reads 0x00C sys.faultpc ∧ reads 0x00D sys.ckptpc ∧
    reads 0x00E (BitVec.ofNat 64 r.loops.length) ∧ reads 0x00F sys.tcause ∧ reads 0x0C0 core.tsense ∧
    reads 0x0C1 core.vsense ∧
    (∀ n < 6, ∀ e, r.loops.reverse[n]? = some e →
      let word : BitVec 128 := (e.count ++ e.exit) ++ e.start
      reads (0x010 + 2 * n) (word.setWidth 64) ∧ reads (0x011 + 2 * n) ((word >>> 64).setWidth 64)) ∧
    (∀ n < 6, r.loops.length ≤ n → reads (0x010 + 2 * n) 0 ∧ reads (0x011 + 2 * n) 0) ∧
    ∀ n < 64, reads (0x040 + n) (sys.blogm.getD n 0) ∧ reads (0x080 + n) (sys.blogp.getD n 0)

/-- R65, R69, R140, R200, R310, R311, R343, R349, R357, R367, R371, R377, R395: the other forms of the K slot. MTS writes DOM or the
low 16 bits of SLACK; FMT waits for a shadow of four bundles; OPP sets the request of its stream and may begin a transition to
the lower of REEF and the higher request; RCM gates the allotted clusters outside its mask; PHASE waits at its level; STAT reads
TSTAT; LIT gives its literal to the bundle; WAIT, once it runs, changes nothing. -/
def Obligations.ControlResults : Prop :=
  ∀ (g : Gd) (kd : BitVec 4) (x : Src) (v : KVal) (imm : W32) (z : BitVec 2) (t0 t1 t2 t3 : BitVec 6) (s : State),
    let value : W64 := match v with | .imm n => n.setWidth 64 | .reg x => s.rd .k x
    let core := s.core s.cur.core
    let zero (x : Src) (r : Regs) : Regs := if x.mark then r.put (x.reg .k).file (x.reg .k).ix 0 else r
    let zeroed (t : State) : State := match v with | .imm _ => t | .reg x => t.updRegs s.cur (zero x)
    let tile := core.tiles.get ((match s.cur.strm with | .main => 0 | .miz => 4 - s.src.zt) + z.toNat) {}
    (Runs (.mts g x 0x005) s → exec (.mts g x 0x005) s = .next (s.updRegs s.cur fun r => zero x { r with dom := s.rd .k x })) ∧
    (Runs (.mts g x 0x008) s → exec (.mts g x 0x008) s =
      .next (s.updRegs s.cur fun r => zero x { r with slack := s.rd .k x &&& 0xFFFF })) ∧
    (Runs (.fmt g v) s → exec (.fmt g v) s =
      .next (zeroed (s.updRegs s.cur fun r => { r with fmtPend := some (value &&& 0xFFFF, 4) }))) ∧
    (Runs (.opp g v) s → ∃ p : CorePower, exec (.opp g v) s = .next (zeroed ((s.updSys s.cur fun y =>
        { y with oppReq := value.setWidth 3 }).updCore s.cur.core fun c => { c with power := p })) ∧
      let other := (streamOf core (match s.cur.strm with | .main => Strm.miz | .miz => .main)).sys.oppReq.toNat
      let goal := min core.power.reef (max (value.toNat % 8) other)
      p = if goal = core.power.point then { core.power with due := 0 }
        else { core.power with trans := some goal, point := min goal core.power.point, due := 0 }) ∧
    (Runs (.rcm g v) s → exec (.rcm g v) s = .next (zeroed (s.updStream s.cur fun st =>
      { st with regs := { st.regs with rcm := value.setWidth 10 }
                sys := { st.sys with gatedClusters := st.vcl &&& ~~~value.setWidth 10 } }))) ∧
    (Runs (.phase g v) s → exec (.phase g v) s = .next (zeroed (s.updStream s.cur fun st =>
      { st with phaseWait := some { value := value.setWidth 32, pc := s.src.regs.pc, next := s.npc
                                    level := s.src.regs.dom.toNat % 8, before := s.src.nextId } }))) ∧
    (Runs (.stat g kd z) s → exec (.stat g kd z) s = .next (s.updRegs s.cur fun r =>
      r.put .k kd.toNat (((tile.late.reverse.find? fun p => decide (core.cycle.toNat < p.1)).map Prod.snd).getD tile.tstat))) ∧
    (Runs (.lit imm) s → exec (.lit imm) s = .next (s.setFrame { s.frame with lit := some imm })) ∧
    (Runs (.wait g t0 t1 t2 t3) s → exec (.wait g t0 t1 t2 t3) s = .next s)

/-- R87, R290, R291, R332, R346, R379: HALT, BRK and SVC end the holds and ask for a checkpoint behind their
bundle; then the stream halts, or takes cause 11 or 12 with the immediate as detail; SVC 0xFFFF leaves the user handler. That they leave the
open group as it is, is the model's (log 48: the manual speaks of their holds alone). -/
def Obligations.StoppingFormsAsk : Prop :=
  ∀ (g : Gd) (imm : W16) (s : State),
    let gp : BitVec 3 := BitVec.ofNat 3 ((s.me.launch.map (·.gpos)).getD 0)
    let cause (c : Nat) : TrapCause :=
      { cause := c, detail := imm.setWidth 29, pc := s.src.regs.pc, bundle := s.me.bundleNo, gpos := gp }
    let asks (a : AfterCkpt) : Host.Outcome State Fault Refusal :=
      .next ((s.updStream s.cur fun st =>
        { st with regs := { st.regs with holds := {} }
                  ckpt := some { before := st.nextId, after := a } }).setFrame { s.frame with unhold := true })
    (Runs (.halt g) s → exec (.halt g) s = asks .halt) ∧
    (Runs (.brk g imm) s → exec (.brk g imm) s = asks (.trap (cause 11))) ∧
    (Runs (.svc g imm) s → s.me.regs.handler = none ∨ imm ≠ 0xFFFF → exec (.svc g imm) s = asks (.trap (cause 12))) ∧
    (Runs (.svc g 0xFFFF) s → s.me.regs.handler ≠ none → exec (.svc g 0xFFFF) s = asks .leaveHandler)

/-! ### Where slots run, wait and trap -/

/-- R69, R76, R78, R164, R310, R357, R371: where a form of the K slot runs: its stream is steady, its guard holds, and what its
entry asks of its operands is met. MFS and STAT are taken here with DET off; with DET on they may trap or wait (R180). R65, R67,
R83, R88, R174, R321: where a form of the A, V or L slot runs: its stream is steady, its guard holds, its v registers lie in
allotted clusters that are not gated, the token that it consumes is set, no address of it fails and none is the target of a held
atomic, and the before-images and the withholding buffer have room for what it writes. No phase with sets is in progress, and
DET is off for ACAS and ASWAP, whose bytes have room in the log of a protected context (R300). PHASE, ACAS and ASWAP run at a commit that nothing
follows (R175, R176). R67, R85, R120, R130, R170: where an engine slot issues: its stream is steady, its guard holds,
its tile is allotted, its queue has room (8 for M and P, 16 for X, 32 for D), it consumes no token of a held D operation, and no
XGET in flight writes the x register that it names. That an M slot waits while a stream copy does for a held D operation is the model's (log 26). ATOMR asks for DET off (R180). -/
def Obligations.SlotsRunWhenReady : Prop :=
  (∀ (i : Instr) (s : State), Steady s → guardHolds s.src.regs i.guard = true → i.slot = some .K →
     s.src.det = false → s.me.det = false →
     (match i with
     | .leave _ => s.src.regs.loops ≠ []
     | .loop _ n ex => tripCount s n = 0 ∨ s.src.regs.loops.length < 6 ∧ ∀ top ∈ s.src.regs.loops.head?,
         top.start ≤ s.npc ∧ s.src.regs.pc + 2 * ex.setWidth 48 ≤ top.exit
     | .mts _ x sr => sr ≠ 0x005 ∨ (s.rd .k x).toNat < 6
     | .fmt _ (.reg x) => (s.rd .k x).toNat < 2 ^ 16 ∧ fmtCodesOk ((s.rd .k x).setWidth 16) = true
     | .opp _ v => (s.core s.cur.core).power.trans = none ∧ (kVal s v).toNat < 8
     | .rcm _ v => (kVal s v).toNat < 1024 ∧ ∀ n < 10, (kVal s v).getLsbD n = true → s.src.vcl.getLsbD n = true
     | .phase _ v => AtCommit s.me ∧ ∀ n, 25 ≤ n → n < 31 → (kVal s v).getLsbD n = false
     | .stat _ _ z => z.toNat < s.src.zt
     | .wait _ a b c d => ∀ t ∈ [a, b, c, d], t ≠ 0 →
         (s.me.gen (s.src.regs.gen t)).set = true ∧ (s.me.gen (s.src.regs.gen t)).status < 2
     | _ => True) → Runs i s) ∧
  (∀ (i : Instr) (s : State), Steady s → guardHolds s.src.regs i.guard = true →
     i.slot = some .A ∨ i.slot = some .V ∨ i.slot = some .L → s.src.regs.phase.sets = none →
     (∀ n ∈ i.vregs, s.src.vcl.getLsbD (n / 64) = true ∧
       (s.me.sys.gatedClusters.getLsbD (n / 64) && s.me.vcl.getLsbD (n / 64)) = false) →
     (i.lct ≠ 0 → (s.me.gen (s.src.regs.gen i.lct)).set = true ∧ (s.me.gen (s.src.regs.gen i.lct)).status < 2) →
     spadFail s i = none → (∀ r ∈ slotAccesses s i, atomHit s.me.atoms r.1 r.2.1 = false) →
     (match i with
     | .aadd .. | .aaddf .. => s.me.atoms.length < 16
     | .acas .. | .aswap .. => AtCommit s.me ∧ s.src.det = false ∧ swapRoom s i = true
     | .xfr _ df di sf si _ _ => s.me.xq = [] ∧
         ∀ o ∈ s.me.pq, (df = 6 → opTouchesQ di.toNat o = false) ∧ (sf = 6 → opTouchesQ si.toNat o = false)
     | _ => True) →
     1024 * (s.me.beforeV.length + 3) + 512 * (s.me.beforeQ.length + 2) ≤ 65536 →
     lineCount ((slotAccesses s i).foldl (fun w r => if r.2.2 then withhold w r.1 (List.replicate r.2.1 0) else w)
       s.me.withheld) ≤ 1024 → Runs i s) ∧
  (∀ (i : Instr) (s : State), Steady s → guardHolds s.src.regs i.guard = true →
     (∀ z, i.tile = some z → z < s.src.zt) → (s.src.det = false ∨ ∀ h d op, i ≠ .atomr h d op) →
     (∀ r ∈ i.reads ++ i.writes, r.file = .x → ∀ o ∈ s.me.xq, ∀ p y, o.body = .xget p y → y.toNat ≠ r.ix) →
     (∀ h t, i.eh = some h → t = h.ct0 ∨ t = h.ct1 ∨ t = h.ct2 → t ≠ 0 →
       (s.me.gen (s.src.regs.gen t)).set = true ∨ heldGen s.me 40 (s.src.regs.gen t) = false) →
     (i.slot = some .M → feedHeld s i = false) →
     (i.slot = some .M ∧ s.me.mq.length < 8 ∨ i.slot = some .P ∧ s.me.pq.length < 8 ∨
       i.slot = some .X ∧ s.me.xq.length < 16 ∨ i.slot = some .D ∧
         s.me.dheld.length + (s.me.dq.filter fun o => o.stage != .finished).length < 32) → Runs i s)

/-- R71, R72, R164: a slot whose guard does not hold. A slot of K, A, V or L changes nothing; an engine slot sets its token at once
with status 1 and still arms or ends its hold. That the slot raises nothing, whatever it would trap on, and that it waits for no
token are the model's reading (log 17); so is what a pending XGET into one of its x registers does, which the hypothesis leaves
to that entry. -/
def Obligations.GuardedOffSlots : Prop :=
  ∀ (i : Instr) (s : State), s.cur.core < numCores → guardHolds s.src.regs i.guard = false →
    (∀ r ∈ i.reads ++ i.writes, r.file = .x → xPending s.me r.ix = false) →
    (i.slot = some .A ∨ i.slot = some .V ∨ i.slot = some .L ∨ i.slot = some .K →
      exec i s = .next s) ∧
    ∀ h k, i.eh = some h → i.slot = some k →
      exec i s = .next (s.updStream s.cur fun st => { st with
        regs := { st.regs with
          t := if h.pt = 0 then st.regs.t else st.regs.t.set h.pt.toNat st.nextGen 0
          holds := setHold st.regs.holds k (if h.hold then some { instr := i, lit := s.frame.lit } else none) }
        gens := if h.pt = 0 then st.gens else (st.gens.set st.nextGen { set := false } {}).set st.nextGen { set := true, status := 1 } {}
        nextGen := if h.pt = 0 then st.nextGen else st.nextGen + 1 })

/-- R65, R76, R78, R111, R165, R180, R285, R286, R321, R347, R348, R357, R376, R395: where a slot traps instead of running, at its
bundle's address: an LD or ST that is misaligned or leaves the scratchpad (cause 6, the address), a v register outside the
allotment (4), LEAVE without a loop (5), a DOM value out of range (2, subcode 5), MFS of CYCLE under DET (3), WAIT on a token
with an error status (7). That a base counts as unsigned, so that one with its top bit set traps whatever the offset, is the model's
(log 16). -/
def Obligations.OffendingSlotsTrap : Prop :=
  ∀ (g : Gd) (ad t : BitVec 6) (sb sd x : Src) (sz : BitVec 2) (sx : Bool) (off : BitVec 18) (o16 : W16) (vd : BitVec 10) (va : VSrc)
    (kd : BitVec 4) (s : State), Steady s → guardHolds s.src.regs g = true → s.me.atoms = [] →
    let n : Nat := 2 ^ sz.toNat
    let from_ : Int := (s.rd .a sb).toNat + off.toInt
    let to_ : Int := (s.rd .a sb).toNat + o16.toInt
    let fails (a : Int) : Prop := a < 0 ∨ 0x1800000 < a + n ∨ a % n ≠ 0
    let trap (cause : Nat) (detail : BitVec 29) (i : Instr) : Prop := exec i s = .next (s.raise s.cur cause detail s.src.regs.pc)
    let gen := s.me.gen (s.src.regs.gen t)
    (fails from_ → trap 6 (BitVec.ofInt 29 from_) (.ld g ad sb sz sx off)) ∧
    (fails to_ → trap 6 (BitVec.ofInt 29 to_) (.st g sd sb sz o16)) ∧
    (s.src.vcl.getLsbD (vd.toNat / 64) = false → s.me.sys.gatedClusters = 0 →
      trap 4 (BitVec.ofNat 29 (7 * 2 ^ 10 + vd.toNat)) (.vmov g vd va 0)) ∧
    (s.src.regs.loops = [] → trap 5 0 (.leave g)) ∧
    ((s.rd .k x).toNat ≥ 6 → trap 2 5 (.mts g x 0x005)) ∧
    (s.src.det = true → trap 3 (BitVec.ofNat 29 (0x0A * 2 ^ 12)) (.mfs g kd 0x000)) ∧
    (t ≠ 0 → gen.set = true → gen.status ≥ 2 → trap 7 (BitVec.ofNat 29 (t.toNat * 2 ^ 8 + gen.status)) (.wait g t 0 0 0))

/-- R61, R63, R82, R170: a slot that runs changes nothing but its own core and the frame of the bundle in issue: no byte of device
memory, no other core, no event. A slot that waits or traps leaves memory too; one that waits for room in the log of a
protected context tells that the log is full (R300). -/
def Obligations.SlotsTouchTheirCoreAlone : Prop :=
  ∀ (i : Instr) (s t : State), i.slot ≠ none → exec i s = .next t →
    t = { s with cores := t.cores, frame := t.frame, mast := t.mast, recov := t.recov } ∧
    (Runs i s ∨ guardHolds s.src.regs i.guard = false → t.mast = s.mast ∧ t.recov = s.recov ∧ (∀ n, n ≠ s.cur.core → t.core n = s.core n) ∧
      t.me.launch = s.me.launch ∧ t.me.run = s.me.run ∧ t.me.dup = s.me.dup)

/-! ### Engines -/

/-- R131, R166, R226: what the slots of M, P and X issue: the registers and the formats as they stand at issue, the tile by its
place in the core. R85, R166, R190, R206, R218, R382: what the slots of D issue: the d registers and the level of DOM as they
stand at issue. R226: a streamed operand of MMA takes the oldest stream copy that none has taken, A before B; a copy that is
taken names the operation. -/
def Obligations.EngineOperationsIssue : Prop :=
  (∀ (h : Eh) (z : BitVec 2) (a b : BitVec 4) (a3 b3 : BitVec 3) (sc : BitVec 2) (q p : BitVec 4) (sp dp : BitVec 5)
     (x : BitVec 4) (y : BitVec 5) (imm : BitVec 5) (s : State),
     let r := s.src.regs
     let m (n : Nat) : W64 := r.get .m n
     let pd : W64 := r.get .p p.toNat
     let tile : Nat := (match s.cur.strm with | .main => 0 | .miz => 4 - s.src.zt) + z.toNat
     let fa : BitVec 4 := r.fmtr.setWidth 4
     let fb : BitVec 4 := (r.fmtr >>> 4).setWidth 4
     let mo : BitVec 4 := (r.fmtr >>> 8).setWidth 4
     let px : BitVec 4 := (r.fmtr >>> 12).setWidth 4
     Issues .M h (.manch h z a) 1 (.manch tile (m a.toNat)) s ∧
     Issues .M h (.mdrain h z a) 2 (.mdrain tile (m a.toNat) mo) s ∧
     Issues .M h (.mma h z a b) 3 (.mma tile (m a.toNat) (m b.toNat) none none fa fb) s ∧
     Issues .M h (.mmas h z a3 b3 sc) 4 (.mma tile (m (2 * a3.toNat)) (m (2 * b3.toNat))
       (if sc.getLsbD 0 then some (m (2 * a3.toNat + 1)) else none)
       (if sc.getLsbD 1 then some (m (2 * b3.toNat + 1)) else none) fa fb) s ∧
     Issues .M h (.mzero h z a) 5 (.mzero tile (m a.toNat)) s ∧
     Issues .P h (.pcheck h p) 1 (.pcheck pd px) s ∧
     Issues .P h (.pdot h z q p) 2 (.pdot tile q.toNat pd) s ∧
     Issues .P h (.pgrp h p) 3 (.pgrp pd) s ∧
     Issues .P h (.pscan h q p) 4 (.pscan q.toNat pd px) s ∧
     Issues .P h (.pscore h p) 5 (.pscore pd px) s ∧
     Issues .X h (.xget h sp x) 1 (.xget sp x) s ∧
     Issues .X h (.xmv h dp (.reg y)) 2 (.xmove dp (r.get .x y.toNat)) s ∧
     Issues .X h (.xmv h dp (.port sp)) 2 (.xresult dp sp) s ∧
     Issues .X h (.xmvi h dp false imm) 3 (.xmove dp (imm.signExtend 64)) s ∧
     Issues .X h (.xmvi h dp true imm) 3 (.xmove dp ((s.frame.lit.getD 0).signExtend 64)) s) ∧
  (∀ (h : Eh) (n : BitVec 5) (op ac : BitVec 4) (ord : BitVec 2) (scope : BitVec 3) (sc : Bool) (s : State),
     let d0 : W64 := s.src.regs.get .d n.toNat
     let d1 : W64 := s.src.regs.get .d (n.toNat + 1)
     Issues .D h (.atomm h n op) 1 (.atom false d0 d1 op) s ∧
     Issues .D h (.atomr h n op) 2 (.atom true d0 d1 op) s ∧
     Issues .D h (.cbar h) 3 (.cbar (s.src.regs.dom.toNat % 8)) s ∧
     Issues .D h (.cpy h n ac ord) 4 (.cpy .cpy d0 d1 ac ord) s ∧
     Issues .D h (.cpyg h n ac ord) 5 (.cpy .cpyg d0 d1 ac ord) s ∧
     Issues .D h (.cpys h n ac ord) 6 (.cpy .cpys d0 d1 ac ord) s ∧
     Issues .D h (.cpyx h n ac ord) 7 (.cpy .cpyx d0 d1 ac ord) s ∧
     Issues .D h (.cred h n op) 8 (.cred d0 d1 (op == 1)) s ∧
     Issues .D h (.fence h scope sc) 9 (.fence scope sc) s ∧
     Issues .D h (.gdone h n) 10 (.gdone d0) s ∧
     Issues .D h (.gtrig h n) 11 (.gtrig d0) s ∧
     Issues .D h (.notify h n) 12 (.notify d0) s ∧
     Issues .D h (.tokj h) 13 .tokj s) ∧
  (∀ (h : Eh) (z : BitVec 2) (ma mb : BitVec 4) (s : State), Runs (.mma h z ma mb) s →
     let needA : Nat := ((s.src.regs.get .m ma.toNat).getLsbD 53).toNat
     let need : Nat := needA + ((s.src.regs.get .m mb.toNat).getLsbD 53).toNat
     let free (c : Op) : Bool := c.body.isStreamCopy && c.inst == none
     ∃ (t : State) (o : Op), exec (.mma h z ma mb) s = .next t ∧ t.me.mq = s.me.mq ++ [o] ∧
       o.feeds = ((s.me.dq.filter free).map Op.id ++ [0, 0]).take need ∧ t.me.dq.length = s.me.dq.length ∧
       ∀ j c, s.me.dq[j]? = some c → t.me.dq[j]? =
         some (if free c = true ∧ (s.me.dq.take j).countP free < need then { c with inst := some s.me.nextId } else c))

/-- R83, R123, R127, R128, R138, R142, R143: the life of an operation on vM, of Main here. MZERO or MANCH binds to the free unit
when its tokens are set, no stream of the core has a cycle open and no retirement of that cycle is still due; the first modification of a tile after a checkpoint keeps the tile's image and starts later. At its
finish MZERO clears the tile and sets its anchor; MANCH moves every element to the new anchor. -/
def Obligations.VirtualEngineOperations : Prop :=
  ∀ (core : Nat) (o : Op) (rest : List Op) (z : Nat) (d : W64) (zero sub : Bool) (s : State), core < numCores →
    let r : SRef := { core := core, strm := .main }
    let st := s.stream r
    let tile := (s.core core).tiles.get z {}
    let image : Bool := st.tileImgs.any fun p => p.1 == z
    let becomes (i : Instr) (o' : Op) (imgs : List (Nat × Tile)) : Prop :=
      exec i s = .next (s.updStream r fun st => { st with mq := o' :: rest, tileImgs := imgs })
    st.mq = o :: rest → (∀ x ∈ rest, o.id < x.id) → o.body = (if zero then .mzero z d else .manch z d) →
    (o.stage = .queued → (∀ g ∈ o.ins, (st.gen g).set = true ∧ (st.gen g).status < 2) → (s.core core).retireDue = false → st.pq = [] →
      (s.core core).miz.mq = [] → (s.core core).miz.pq = [] → (s.core core).half = none → (∀ x ∈ rest, x.stage = .queued) →
      becomes (.engineBind core .m)
        { o with stage := if image then .started else .bound, sub := false, status := 0
                 rank := (s.ctx st.owner).rank, bcyc := (s.core core).cycle.setWidth 24 }
        (if image then st.tileImgs else (z, tile) :: st.tileImgs)) ∧
    (o.stage = .bound → o.sub = sub → becomes (.engineStart core .m sub) { o with stage := .started } st.tileImgs) ∧
    (o.stage = .started → o.sub = sub → o.status = 0 → image = true →
      ∃ t new, exec (.virtualEngineFinish core .m sub) s = .next t ∧ t = s.setCore core (t.core core) ∧
        t.core core = { s.core core with main := { st with mq := { o with stage := .finished } :: rest }
                                         tiles := (s.core core).tiles.set z new {} } ∧
        new.anchor = d.setWidth 10 ∧
        (zero = true → (∀ n, new.z.get n {} = {}) ∧ new.tstat = 0) ∧
        (zero = false → SMap.canon {} tile.z = true → new.tstat = tile.tstat ∧ ∀ n < 16384,
          let e := tile.z.get n {}
          let up : Int := tile.anchor.toInt - (d.setWidth 10).toInt
          let x : Int := if 0 ≤ up then e.v.toInt * 2 ^ up.toNat else e.v.toInt / 2 ^ (-up).toNat
          let lost : Bool := decide (up < 0) && decide (e.v.toInt % 2 ^ (-up).toNat ≠ 0)
          new.z.get n {} = { v := BitVec.ofInt 128 x
                             fl := e.fl ||| (if lost then 1 else 0) |||
                               (if -(2 ^ 127) ≤ x ∧ x < 2 ^ 127 then 0 else 2) }))

/-- R45, R46, R137, R358: an MMA or MMAS that has its operands finishes: every term enters the element of its row and column, one term
for each k, or, when an operand is block-scaled, one for each block of 8: the sum of its products times the scales that apply. R133 to
R135: of dense operands in the scratchpad, vector n starts at 64 × (ADDR + n × STRIDE), and its scales at ADDR + n × STRIDE. R46: a whole
term that fits is added exactly, modulo 2^128. R49, R139, R140, R354: an MDRAIN writes each element, rounded once, at OADDR + OSTRIDE × i,
and TSTAT with the anchor and the flags of all elements; nothing else changes. An element with NAN, OVF or both infinities drains to the
canonical NaN, one with an infinity to it, a zero with the sign of NZ. The cycle from which the new TSTAT is read is the model's (log 6),
so are a −0 for a negative value that rounds to zero (log 54) and,
of the scaled sums, the NaN that an infinity times a zero gives and the sign of a zero where R47 gives none (log 57). -/
def Obligations.MatrixResults : Prop :=
  (∀ (core : Nat) (sub : Bool) (r : SRef) (o : Op) (z : Nat) (da db : W64) (sa sb : Option W64) (fa fb : BitVec 4) (s s' : State)
     (va vb : List Vec), core < numCores → s.atPlace core .m sub .started = some (r, o) → o.status = 0 → o.entered = [] →
     o.body = .mma z da db sa sb fa fb → s.mmaOperands r o da db sa sb fa fb = .ok (s', va, vb) →
     let tile := (s'.core r.core).tiles.get z {}
     let a (i : Nat) : Vec := va.getD i default
     let b (j : Nat) : Vec := vb.getD j default
     let products (i j : Nat) : List Sys2Proof.Num := List.zipWith Sys2Proof.Num.mul (a i).vals (b j).vals
     let terms (i j : Nat) : List (Sys2Proof.Num × Bool) :=
       if fa = 1 ∨ fb = 1 ∨ sa.isSome = true ∨ sb.isSome = true then (List.range (a i).scales.length).map fun g =>
         ((Sys2Proof.Num.sum (((products i j).drop (8 * g)).take 8)).scaleBy ((a i).scales.getD g [] ++ (b j).scales.getD g []),
           (a i).mal.getD g false || (b j).mal.getD g false)
       else (products i j).map fun x => (x, false)
     SMap.canon {} tile.z = true → ∃ new : Tile,
       exec (.virtualEngineFinish core .m sub) s = .next ((s'.updTile r z fun _ => new).setEOp r .m { o with stage := .finished }) ∧
       new = { tile with z := new.z } ∧
       ∀ i < 128, ∀ j < 128, new.z.get (128 * i + j) {} =
         (terms i j).foldl (fun e x => accTerm e x.1 x.2 tile.anchor.toInt) (tile.z.get (128 * i + j) {})) ∧
  (∀ (r : SRef) (o : Op) (z : Nat) (da db : W64) (sa sb : Option W64) (fa fb : BitVec 4) (f g : Fmt) (s : State),
     o.body = .mma z da db sa sb fa fb → (s.stream r).regs.phase.sets = none → Fmt.ofCode fa = some f → Fmt.ofCode fb = some g →
     (∀ d ∈ [da, db], d.getLsbD 53 = false ∧ d.getLsbD 54 = false ∧ d.getLsbD 55 = false) →
     let rd (x n : Nat) : Nat := leNat (spadRead (s.core r.core) r.strm x n)
     let dense (d : W64) (sd : Option W64) (h : Fmt) (l : List Vec) : Prop := ∀ n < 128, ∃ v : Vec, l[n]? = some v ∧
       let k := (d.extractLsb' 40 13).toNat
       let at' := 64 * ((d.extractLsb' 0 19).toNat + n * (d.extractLsb' 28 12).toNat)
       v.vals = (List.range k).map (fun i => Sys2Proof.Num.decode h (rd (at' + i * h.size) h.size)) ∧
       v.scales = (List.range ((k + 7) / 8)).map (fun i => match sd with
         | none => []
         | some w => [Sys2Proof.Num.decode .s24 (rd ((w.extractLsb' 0 25).toNat + n * (w.extractLsb' 28 16).toNat + 3 * i) 3)]) ∧
       ∀ i, v.mal.getD i false = false
     ∃ va vb, s.mmaOperands r o da db sa sb fa fb = .ok (s, va, vb) ∧ dense da sa f va ∧ dense db sb g vb) ∧
  (∀ (e : Acc) (neg : Bool) (m : Nat) (x anchor : Int),
     let n : Int := if neg then -(m : Int) else m
     let up : Int := x - anchor + 96
     let y : Int := if 0 ≤ up then n * 2 ^ up.toNat else n / 2 ^ (-up).toNat
     let lost : Bool := decide (up < 0) && decide (n % 2 ^ (-up).toNat ≠ 0)
     let fits : Bool := decide (-(2 ^ 127) ≤ y) && decide (y < 2 ^ 127)
     let new := accTerm e (.fin neg m x) false anchor
     new.v = (if fits then BitVec.ofInt 128 (e.v.toInt + y) else e.v) ∧
       ∀ b < 8, flag new.fl b = if b = 5 then false else flag e.fl b || (b == 0 && lost) || (b == 1 && !fits)) ∧
  (∀ (core : Nat) (sub : Bool) (r : SRef) (o : Op) (z : Nat) (d : W64) (mo : BitVec 4) (f : Fmt) (s : State), core < numCores →
     s.atPlace core .m sub .started = some (r, o) → o.status = 0 → o.body = .mdrain z d mo → Fmt.ofCode mo = some f →
     let st := s.stream r
     let tile := (s.core r.core).tiles.get z {}
     let row (i : Nat) : Nat := (d.extractLsb' 0 25).toNat + i * (d.extractLsb' 28 16).toNat
     let out (n : Nat) : Drained := drain (tile.z.get n {}) tile.anchor.toInt f
     st.regs.phase.sets = none → SMap.canon {} tile.z = true → 128 * f.size ≤ (d.extractLsb' 28 16).toNat →
     lineCount ((List.range 128).foldl (fun w i => withhold w (row i) (List.replicate (128 * f.size) 0)) st.withheld) ≤ 1024 →
     ∃ t, exec (.virtualEngineFinish core .m sub) s = .next t ∧
       (∀ i < 128, ∀ j < 128, leNat (spadRead (t.core r.core) r.strm (row i + j * f.size) f.size) =
         (out (128 * i + j)).bits % 2 ^ (8 * f.size)) ∧
       (∀ c w x, (c = r.core ∧ w = r.strm ∧ ∃ i < 128, row i ≤ x ∧ x < row i + 128 * f.size) ∨
         spadRead (t.core c) w x 1 = spadRead (s.core c) w x 1) ∧
       (∃ n, (t.core r.core).tiles.get z {} = { tile with
         tstat := tile.anchor.setWidth 64 <<< 16 ||| ((List.range 16384).foldl (fun x n => x ||| (out n).flags) 0).setWidth 64
         late := (n, tile.tstat) :: tile.late.filter fun p => decide ((s.core r.core).cycle.toNat < p.1) } ∧ (s.core r.core).cycle.toNat + 4 ≤ n) ∧
       (∀ y, y ≠ z → (t.core r.core).tiles.get y {} = (s.core r.core).tiles.get y {}) ∧
       (t.stream r).regs = st.regs ∧ t.mem = s.mem ∧ t.mast = s.mast) ∧
  (∀ (e : Acc) (anchor : Int) (f : Fmt),
     let on (n : Nat) : Bool := flag e.fl n
     let bits := (drain e anchor f).bits
     (on 1 || on 2 || (on 3 && on 4) → bits = f.canonNaN) ∧
     (on 1 = false → on 2 = false → on 3 = true → on 4 = false → bits = f.infinity false) ∧
     (on 1 = false → on 2 = false → on 3 = false → on 4 = true → bits = f.infinity true) ∧
     (on 1 = false → on 2 = false → on 3 = false → on 4 = false → bits = if e.v = 0 then f.zero (on 5)
       else Sys2Proof.Num.encode f (.fin (decide (e.v.toInt < 0)) e.v.toInt.natAbs (anchor - 96))))

/-- R41, R145 to R147, R149: PGRP decodes the fan block at ADDR, its D4 or D3 differences and their escape lists, into its slot; without a
valid block or list the slot takes the code, 2 or 6, which is the status. R151, R152: PSCAN writes, lane by lane, the class, the format and the running sum of the permuted activations. R144, R153: PDOT
adds, for each row of the fan block and each scan, the scaled sum of the products of weights and permuted activations into the element of
the row and the column: exactly where every lane has class 0 and the scale is finite; otherwise what is NaN, infinite or −0 enters as such. R155, R156, R158: PSCORE and PCHECK write the list of the selected
neurons, ascending and cut at its capacity, and the count with its overflow bit: PSCORE those whose score is not below the threshold,
PCHECK those outside the given list whose shadow sum exceeds the bound or whose error is NaN or negative. That PCHECK's rows need no
alignment is the model's (log 55), and so are the NaN and the zeros of a scaled sum that R47 does not give (log 57). -/
def Obligations.SummationResults : Prop :=
  ∀ (core : Nat) (sub : Bool) (r : SRef) (o : Op) (d : W64) (s : State), core < numCores →
    s.atPlace core .p sub .started = some (r, o) → o.status = 0 → (s.stream r).regs.phase.sets = none →
    let st := s.stream r
    let rd (x n : Nat) : List Byte := spadRead (s.core r.core) r.strm x n
    let num (x n : Nat) : Nat := leNat (rd x n)
    let addr : Nat := (d.extractLsb' 0 25).toNat
    let slot : Nat := (d.extractLsb' 49 3).toNat
    let finishes (t : State) (status : Nat) : Prop :=
      exec (.virtualEngineFinish core .p sub) s = .next (t.setEOp r .p { o with stage := .finished, status := status })
    let fills (f : FanSlot) : State := s.updRegs r fun g => { g with fans := g.fans.set slot f .empty }
    let acts (f : Fmt) (n : Nat) : Sys2Proof.Num := Sys2Proof.Num.decode f (num (addr + n * f.size) f.size)
    let lists (l : List Nat) (la ca cap : Nat) : Prop :=
      let short := l.take cap
      lineCount (withhold (withhold st.withheld la (List.replicate (2 * short.length) 0)) ca (List.replicate 4 0)) ≤ 1024 →
      (la + 2 * short.length ≤ ca ∨ ca + 4 ≤ la) →
      ∃ t, exec (.virtualEngineFinish core .p sub) s = .next t ∧
        (∀ i x, short[i]? = some x → leNat (spadRead (t.core r.core) r.strm (la + 2 * i) 2) = x % 2 ^ 16) ∧
        leNat (spadRead (t.core r.core) r.strm ca 4) = l.length % 2 ^ 16 + (if cap < l.length then 2 ^ 31 else 0) ∧
        (∀ c w x, (c = r.core ∧ w = r.strm ∧ (la ≤ x ∧ x < la + 2 * short.length ∨ ca ≤ x ∧ x < ca + 4)) ∨
          spadRead (t.core c) w x 1 = spadRead (s.core c) w x 1) ∧
        (t.stream r).regs = st.regs ∧ t.mem = s.mem
    (o.body = .pgrp d →
      (addr % 8 ≠ 0 ∨ 0x1800000 < addr + 40 ∨ (num addr 8 / 256 % 16 ≠ 9 ∧ num addr 8 / 256 % 16 ≠ 10) →
        finishes (fills (.bad 2)) 2) ∧
      (∀ (rows : Nat) (df : BitVec 4), rows = num addr 8 % 8 + 1 → addr % 8 = 0 → addr + 40 ≤ 0x1800000 →
        num addr 8 / 256 % 16 = df.toNat → (df = 9 ∨ df = 10) →
        let w : Nat := if df = 9 then 4 else 3
        let esc : Nat := 2 ^ (w - 1)
        let code (i k : Nat) : Nat := num (addr + 40 + 4 * w * i) (4 * w) / 2 ^ (w * k) % 2 ^ w
        let before (i k : Nat) : Nat := ((List.range i).map fun j => (List.range 31).countP fun x => code j x == esc).sum +
          (List.range k).countP fun x => code i x == esc
        let listed (i k : Nat) : Nat := num (addr + 40 + 4 * w * rows + 2 * before i k) 2
        let right : Prop := ∀ i < rows, ∀ k < 31, code i k = esc → listed i k % 32 = k ∧ listed i k / 32 % 4 = 0
        let last := addr + 40 + 4 * w * rows + 2 * before rows 0
        (0x1800000 < last → finishes (fills (.bad 2)) 2) ∧
        (last ≤ 0x1800000 → ¬ right → finishes (fills (.bad 6)) 6) ∧
        (last ≤ 0x1800000 → right → finishes (fills (.valid {
          perm := (List.range 32).map fun k => num (addr + 8) 20 / 32 ^ k % 32
          scale := BitVec.ofNat 24 (num (addr + 28) 3), df := df, base := rd (addr + 32) rows
          diff := (List.range rows).map fun i => (List.range 31).map fun k =>
            if code i k = esc then (BitVec.ofNat 9 (listed i k / 128)).toInt
            else if code i k < esc then (code i k : Int) else (code i k : Int) - 2 ^ w })) 0))) ∧
    (∀ q px f u fan, o.body = .pscan q d px → o.fan = .valid fan → Fmt.ofCode px = some f → pxUnit px = some u →
      fan.perm.length = 32 → (∀ i ∈ fan.perm, i < 32) → 1024 * st.beforeV.length + 512 * (st.beforeQ.length + 1) ≤ 65536 →
      let x (k : Nat) : Sys2Proof.Num := acts f (fan.perm.getD k 0)
      let cls (y : Sys2Proof.Num) : Nat := match y with | .inf false => 1 | .inf true => 2 | .nan => 3 | .zero true => 4 | _ => 0
      let sum (k : Nat) : Int := ((List.range (k + 1)).map fun i => if cls (x i) = 0 then unitsOf (x i) u else 0).sum
      ∃ v : QReg, finishes (s.setStream r (streamWriteQ st q v)) 0 ∧
        ∀ k < 32, elem v k 128 = BitVec.ofNat 4 (cls (x k)) ++ px ++ BitVec.ofInt 120 (sum k)) ∧
    (∀ z q fan, o.body = .pdot z q d → o.fan = .valid fan → o.entered = [] →
      let tile := (s.core r.core).tiles.get z {}
      let row : Nat := (d.extractLsb' 42 7).toNat
      let col : Nat := (d.extractLsb' 35 7).toNat
      let scale : List Sys2Proof.Num := [Sys2Proof.Num.decode .s24 fan.scale.toNat]
      let weight (i k : Nat) : Int := (fan.base.getD i 0).toInt - (((fan.diff.getD i []).drop k)).sum
      let ks := List.range 32
      let term (i : Nat) (q : QReg) : Sys2Proof.Num :=
        let whole := (Sys2Proof.Num.sum (ks.map fun k => Sys2Proof.Num.mul (Sys2Proof.Num.ofInt (weight i k)) ((laneVals q).getD k default))).scaleBy scale
        let x := Sys2Proof.Num.decode .s24 fan.scale.toNat
        let plain : Bool := x != .nan && x != .inf false && x != .inf true && ks.all fun k => (elem q k 128).extractLsb' 124 4 == 0
        if plain = false ∧ (whole = .nan ∨ whole = .inf false ∨ whole = .inf true ∨ whole = .zero true) then whole
        else (scanNum q (ks.map fun k => weight i k * laneStep q k).sum).scaleBy scale
      (∀ x ∈ fan.diff, x.length = 31) → fan.diff.length = fan.base.length → fan.base.length ≠ 0 → col + o.qs.length ≤ 128 →
      ∃ new : Tile, finishes (s.updTile r z fun _ => new) 0 ∧ new = { tile with z := new.z } ∧
        ∀ n, new.z.get n {} =
          let i := n / 128 - row
          let t := n % 128 - col
          if row ≤ n / 128 ∧ i < fan.base.length ∧ col ≤ n % 128 ∧ t < o.qs.length then
            accTerm (tile.z.get n {}) (term i (o.qs.getD t 0)) false tile.anchor.toInt
          else tile.z.get n {}) ∧
    (∀ px f, Fmt.ofCode px = some f →
      let b := rd addr 64
      let fld' (off n : Nat) : Nat := leNat ((b.drop off).take n)
      let at' (off : Nat) : Nat := fld' off 4 % 2 ^ 25
      let k := fld' 4 2
      let rk := fld' 6 1
      let n := fld' 20 2
      let xs (i : Nat) : Sys2Proof.Num := Sys2Proof.Num.decode f (num (at' 0 + i * f.size) f.size)
      addr % 64 = 0 → addr + 64 ≤ 0x1800000 →
      (∀ u, o.body = .pscore d px → pxUnit px = some u → paramsBad (b.take 40) px false = false →
        let us := Sys2Proof.Num.decode .s24 (fld' 36 3)
        let special (y : Sys2Proof.Num) : Bool := match y with | .nan | .inf _ => true | _ => false
        let v (j c : Nat) : Int := (((rd (at' 8 + j * fld' 12 4 + c) 1).headD 0).toInt)
        let w (m j : Nat) : Int := (((rd (at' 16 + m * rk + j) 1).headD 0).toInt)
        let dot (m : Nat) : Int := ((List.range rk).map fun j =>
          w m j * ((List.range k).map fun c => v j c * unitsOf (xs c) u).sum).sum
        let score (m : Nat) : Sys2Proof.Num := Sys2Proof.Num.mul us (if dot m = 0 then .zero false else .fin (decide (dot m < 0)) (dot m).natAbs u)
        lists ((List.range n).filter fun m =>
          (List.range k).any (fun c => special (xs c)) || special us || Sys2Proof.Num.cmp (score m) (Sys2Proof.Num.decode .fp32 (fld' 32 4)) != .lt)
          (at' 24) (at' 28) (fld' 22 2)) ∧
      (o.body = .pcheck d px → paramsBad b px true = false →
        let sel := (List.range (min (num (at' 28) 4 % 2 ^ 16) (fld' 22 2))).map fun i => num (at' 24 + 2 * i) 2
        let bytes (m : Nat) : List Byte := rd (at' 40 + m * fld' 44 4) (8 + 8 * ((k + 7) / 8))
        let approx (m : Nat) : Sys2Proof.Num := shadowSum (bytes m) ((List.range k).map xs) k
        let err (m : Nat) : Sys2Proof.Num := Sys2Proof.Num.decode .fp32 (leNat ((bytes m).take 4))
        sel.Pairwise (· < ·) → (∀ m ∈ sel, m < n) →
        lists ((List.range n).filter fun m => !sel.contains m &&
          (approx m == .nan || Sys2Proof.Num.cmp (approx m) (Sys2Proof.Num.decode .fp32 (fld' 48 4)) == .gt || err m == .nan ||
            Sys2Proof.Num.cmp (err m) (.zero false) == .lt)) (at' 52) (at' 56) (fld' 60 2)))

/-- R127, R128, R163: the oldest operation of a stream on a virtual engine retires once it has finished: its token is set with its
status and its binding, and its entry comes first in the binding log of 64. R402: one that was never bound is logged with the rank and the
cycle of its retirement. R377: with DET = 1, an MDRAIN that retires with a status from 2 on makes the TSTAT of its tile readable. R129, R243, R245, R398, R399, R402: the oldest X
operation of a stream retires once its tokens are set: XGET writes its x register, a move its parameter, a trigger that has run
the result of its unit, and the token takes the status. One that consumed an error and has not run retires with status 7 and no
effect. That SUM and TRAN write their result register for status 0 alone is the model's reading (log 9). -/
def Obligations.OperationsRetire : Prop :=
  (∀ (r : SRef) (o : Op) (rest : List Op) (s : State), r.core < numCores → o.stage = .finished ∨ o.stage = .passed →
     let sys := (s.stream r).sys
     let c := s.core r.core
     let rank : BitVec 3 := if o.stage = .passed then (s.ctx (s.stream r).owner).rank else o.rank
     let bcyc : BitVec 24 := if o.stage = .passed then c.cycle.setWidth 24 else o.bcyc
     let readable : State := match o.body with
       | .mdrain z .. => if (s.stream r).det = true ∧ 2 ≤ o.status then
           s.setCore r.core { c with tiles := c.tiles.set z { c.tiles.get z {} with late := [] } {} } else s
       | _ => s
     let bind : BitVec 2 := if o.sub then 1 else 0
     let entry (seq : Nat) : W64 :=
       BitVec.ofNat 16 seq ++ o.tok ++ o.opc ++ bind ++ rank ++ BitVec.ofNat 6 o.status ++ bcyc
     let gens (st : Stream) : SMap Gen :=
       if o.out = 0 then st.gens else st.gens.set o.out { set := true, bind := bind, status := o.status } {}
     ((s.stream r).mq = o :: rest → exec (.virtualEngineRetire r .m) s = .next (readable.updStream r fun st =>
       { st with mq := rest, gens := gens st
                 sys := { sys with seqm := sys.seqm % 65535 + 1
                                   blogm := (entry (sys.seqm % 65535 + 1) :: sys.blogm).take 64 } })) ∧
     ((s.stream r).pq = o :: rest → exec (.virtualEngineRetire r .p) s = .next (readable.updStream r fun st =>
       { st with pq := rest, gens := gens st
                 sys := { sys with seqp := sys.seqp % 65535 + 1
                                   blogp := (entry (sys.seqp % 65535 + 1) :: sys.blogp).take 64 } }))) ∧
  (∀ (r : SRef) (o : Op) (rest : List Op) (s : State), r.core < numCores →
     let st := s.stream r
     let result (port : BitVec 5) : W64 := if port = 8 then st.regs.packRes else st.regs.sumRes
     let retires (regs : Regs) (status : Nat) : Prop :=
       exec (.xOperationRetire r) s = .next (s.updStream r fun st => { st with
         xq := rest, regs := regs
         gens := if o.out = 0 then st.gens else st.gens.set o.out { set := true, status := status } {} })
     st.xq = o :: rest → (∀ g ∈ o.ins, (st.gen g).set = true) →
     let bad : Prop := ∃ g ∈ o.ins, 2 ≤ (st.gen g).status
     (o.stage = .queued → bad → retires st.regs 7) ∧
     (o.stage = .queued → ¬bad → o.status = 0 →
       (∀ port x, o.body = .xget port x → retires { st.regs with x := st.regs.x.set x.toNat (result port) 0 } 0) ∧
       (∀ dp v, o.body = .xmove dp v → dp.toNat % 8 ≠ 7 →
         retires { st.regs with xparam := st.regs.xparam.set dp.toNat v 0 } 0) ∧
       (∀ dp sp, o.body = .xresult dp sp → dp.toNat % 8 ≠ 7 →
         retires { st.regs with xparam := st.regs.xparam.set dp.toNat (result sp) 0 } 0)) ∧
     (o.stage = .finished → ∀ dp mode, o.body = .xmove dp mode → dp.toNat % 8 = 7 →
       retires (if dp = 15 ∧ (o.status = 0 ∨ o.status = 15) then { st.regs with packRes := o.crc.setWidth 64 }
         else if (dp = 31 ∨ dp = 23 ∧ mode.getLsbD 0 = true) ∧ o.status = 0 then { st.regs with sumRes := o.crc.setWidth 64 }
         else st.regs) o.status))

/-- R243 to R249, R400: a trigger at the head of its stream's X order, its tokens set, runs its unit on the parameters as they
stand: CONV converts COUNT elements, TRAN transposes, SUM and TRAN give a CRC-32C, PACK builds a record or, beyond CAP, its
length word alone. What a unit writes is withheld; no other byte reads otherwise. That CONV gives −0 for a nonzero negative value that
rounds to zero is the model's (log 54). -/
def Obligations.TransformResults : Prop :=
  ∀ (r : SRef) (o : Op) (rest : List Op) (dp : BitVec 5) (mode : W64) (s : State), r.core < numCores →
    let st := s.stream r
    let par (unit port : Nat) : Nat := (st.regs.xparam.get (8 * unit + port) 0).toNat
    let addr (unit port : Nat) : Nat := par unit port % 2 ^ 25
    let rd (t : State) (a n : Nat) : List Byte := spadRead (t.core r.core) r.strm a n
    let apart (a n b m : Nat) : Prop := a + n ≤ b ∨ b + m ≤ a
    let ends (i : Instr) (lo n : Nat) (status : Nat) (word : W32) (p : State → Prop) : Prop :=
      ∃ t, exec i s = .next t ∧ p t ∧
        (t.stream r).xq = { o with stage := .finished, status := status, crc := word } :: rest ∧
        (t.stream r).regs = st.regs ∧ t.mem = s.mem ∧ (t.core r.core).spad = (s.core r.core).spad ∧
        ∀ x, x < lo ∨ lo + n ≤ x → rd t x 1 = rd s x 1
    st.xq = o :: rest → o.stage = .queued → o.body = .xmove dp mode →
    (∀ g ∈ o.ins, (st.gen g).set = true ∧ (st.gen g).status < 2) → st.regs.phase.sets = none → lineCount st.withheld = 0 →
    (dp = 7 → ∀ f g m, convFmt (BitVec.ofNat 4 (par 0 3 / 16)) = some f → convFmt (BitVec.ofNat 4 (par 0 3)) = some g →
      (mode.getLsbD 4 = true → convFmt (mode.setWidth 4) = some m) →
      let n := par 0 2; let src := addr 0 0; let dst := addr 0 1
      1 ≤ n → n ≤ 4096 → src % f.size = 0 → dst % g.size = 0 → src + n * f.size ≤ 0x1800000 → dst + n * g.size ≤ 0x1800000 →
      apart src (n * f.size) dst (n * g.size) →
      ends (.conv r) dst (n * g.size) 0 0 fun t => ∀ k < n,
        let x := leNat (rd s (src + k * f.size) f.size)
        leNat (rd t (dst + k * g.size) g.size) =
          (if mode.getLsbD 4 then convertVia f m g x else convert f g x) % 2 ^ (8 * g.size)) ∧
    (dp = 15 → par 1 3 ≤ 2 →
      let e := 2 ^ par 1 3; let src := addr 1 0; let dst := addr 1 1; let cap := par 1 2
      let on (k : Nat) : Bool := leNat (rd s (src + k * e) e) != 0
      let nnz := (List.range (1024 / e)).countP on
      let size := 4 + 128 / e + nnz * e
      let word (ovr : Bool) : W32 := BitVec.ofNat 32 ((if ovr then 2 ^ 31 else 0) + par 1 3 * 2 ^ 29 + nnz)
      src % 64 = 0 → dst % 4 = 0 → 4 ≤ cap → src + 1024 ≤ 0x1800000 → dst + cap ≤ 0x1800000 → apart src 1024 dst cap →
      (size ≤ cap → ends (.pack r) dst size 0 (word false) fun t =>
        leNat (rd t dst 4) = (word false).toNat ∧
        (∀ k < 1024 / e, (leNat (rd t (dst + 4) (128 / e))).testBit k = on k) ∧
        ∀ k < 1024 / e, on k = true →
          rd t (dst + 4 + 128 / e + (List.range k).countP on * e) e = rd s (src + k * e) e) ∧
      (cap < size → ends (.pack r) dst 4 15 (word true) fun t => leNat (rd t dst 4) = (word true).toNat)) ∧
    (dp = 23 → par 2 4 ≤ 2 →
      let e := 2 ^ par 2 4; let src := addr 2 0; let dst := addr 2 1; let ss := par 2 2; let ds := par 2 3
      32 * e ≤ ss → 32 * e ≤ ds → src % e = 0 → dst % e = 0 → src + 31 * ss + 32 * e ≤ 0x1800000 →
      dst + 31 * ds + 32 * e ≤ 0x1800000 → apart src (31 * ss + 32 * e) dst (31 * ds + 32 * e) →
      ∃ word, (mode.getLsbD 0 = true → word = crc32c (BitVec.ofNat 32 (par 3 2)) ((List.range 32).flatMap fun j =>
          (List.range 32).flatMap fun i => rd s (src + i * ss + j * e) e)) ∧
        ends (.tran r) dst (31 * ds + 32 * e) 0 word fun t => ∀ i < 32, ∀ j < 32,
          rd t (dst + j * ds + i * e) e = rd s (src + i * ss + j * e) e) ∧
    (dp = 31 →
      let src := addr 3 0; let n := par 3 1
      1 ≤ n → n ≤ 0x1800000 → src + n ≤ 0x1800000 →
      ends (.sum r) src 0 0 (crc32c (BitVec.ofNat 32 (par 3 2)) (rd s src n)) fun _ => True)

/-- R219 to R221, R223, R224, R248, R302, R338: a copy command whose tokens are set and whose extents each lie in one local page moves its bytes
and retires. CPY moves one extent in either direction; a store leaves every other byte of memory as its key reads it. CPYG and CPYS move
the elements that the index list names, an element of index −2^31 excepted; where elements of a scatter overlap, the highest wins.
CPYX expands records, and the first malformed one ends it with status 16. -/
def Obligations.CopyMovesBytes : Prop :=
  (∀ (r : SRef) (o : Op) (rest : List Op) (d0 d1 : W64) (ac : BitVec 4) (ord : BitVec 2) (x : Xlat) (s1 s : State),
    let st := s.stream r
    let ctx := st.owner
    let sp := d1.toNat % 2 ^ 25
    let n := d1.toNat / 2 ^ 32 % 2 ^ 25
    let dir := d1.toNat / 2 ^ 62
    let key := leafKey x.leaf
    let c := s.core r.core
    let retires (p : State → Prop) : Prop := ∃ t, exec (.copyComplete r o.id) s = .next t ∧ p t ∧ t.stream r = retired o rest 0 st
    Oldest s r o rest → Clean s r o → o.body = .cpy .cpy d0 d1 ac ord → o.moved = 0 → o.segs = none →
    st.regs.phase.sets = none → s.logged ctx = false → 1 ≤ n → sp + n ≤ 0x1800000 →
    (∀ a y, d0.toNat ≤ a → a < d0.toNat + n → s.peekLeaf ctx (some r.core) a = some y → leafEgr y.leaf = 0) →
    s.boundsOk ctx d0.toNat n (dir == 0) (dir == 1) = true →
    s.translate ctx (some r.core) d0.toNat (dir == 0) (dir == 1) = (s1, .ok x) → n ≤ x.left → leafEgr x.leaf = 0 →
    (dir = 0 → retires fun t => t.mem = s.mem ∧
      (∀ k < n, (t.core r.core).spad.get (sp + k) 0 = s.memByte key (x.pa + k)) ∧
      ∀ a, a < sp ∨ sp + n ≤ a → (t.core r.core).spad.get a 0 = c.spad.get a 0) ∧
    (dir = 1 → retires fun t => (t.core r.core).spad = c.spad ∧
      (∀ k < n, t.memByte key (x.pa + k) = c.spad.get (sp + k) 0) ∧
      ∀ pa, pa < x.pa ∨ x.pa + n ≤ pa → t.memByte key pa = s.memByte key pa)) ∧
  (∀ (r : SRef) (o : Op) (rest : List Op) (store : Bool) (d0 d1 : W64) (ac : BitVec 4) (ord : BitVec 2) (x : Nat → Xlat) (key : Nat) (s : State),
    let st := s.stream r
    let spad (t : State) (a : Nat) : Byte := (t.core r.core).spad.get a 0
    let e := 2 ^ (d1.toNat / 2 ^ 60)
    let n := d1.toNat / 2 ^ 48 % 2 ^ 12 + 1
    let il := 4 * (d1.toNat / 2 ^ 25 % 2 ^ 23)
    let sp := d1.toNat % 2 ^ 25
    let idx (i : Nat) : Int := (BitVec.ofNat 32 (readLE (s.core r.core).spad (il + 4 * i) 4)).toInt
    let moves (i : Nat) : Prop := i < n ∧ idx i ≠ -2 ^ 31
    let va (i : Nat) : Nat := ((d0.toNat + idx i * e) % 2 ^ 64).toNat
    let hits (i pa : Nat) : Prop := (x i).pa ≤ pa ∧ pa < (x i).pa + e
    Oldest s r o rest → Clean s r o → o.body = .cpy (if store then .cpys else .cpyg) d0 d1 ac ord → o.moved = 0 → o.segs = none →
    st.regs.phase.sets = none → s.logged st.owner = false → e ≤ 4096 → sp + n * e ≤ 0x1800000 → il + 4 * n ≤ 0x1800000 →
    (∀ i, moves i → LocalHit s r (va i) e (!store) store (x i) ∧ leafKey (x i).leaf = key) →
    ∃ t, exec (.copyComplete r o.id) s = .next t ∧ t.stream r = retired o rest 0 st ∧
      (if store then
        (∀ i j, moves i → j < e → (∀ k, moves k → i < k → ¬hits k ((x i).pa + j)) →
          t.memByte key ((x i).pa + j) = spad s (sp + i * e + j)) ∧
        (∀ pa, (∀ i, moves i → ¬hits i pa) → t.memByte key pa = s.memByte key pa) ∧ (t.core r.core).spad = (s.core r.core).spad
      else
        (∀ i j, moves i → j < e → spad t (sp + i * e + j) = s.memByte key ((x i).pa + j)) ∧
        (∀ a, (∀ i, moves i → a < sp + i * e ∨ sp + i * e + e ≤ a) → spad t a = spad s a) ∧ t.mem = s.mem)) ∧
  ∀ (r : SRef) (o : Op) (rest : List Op) (m : Nat) (d0 d1 : W64) (ac : BitVec 4) (ord : BitVec 2) (x : Nat → Xlat) (s : State),
    let st := s.stream r
    let spad (t : State) (a : Nat) : Byte := (t.core r.core).spad.get a 0
    let size := 64 * (d1.toNat / 2 ^ 38 % 2 ^ 12)
    let n := d1.toNat / 2 ^ 50 % 2 ^ 8 + 1
    let sp := d1.toNat % 2 ^ 25
    let crc := d1.getLsbD 63
    let rec' (i a k : Nat) : Nat := leNat (s.memRead (leafKey (x i).leaf) ((x i).pa + a) k)
    let word (i : Nat) : W32 := BitVec.ofNat 32 (rec' i 0 4)
    let e (i : Nat) : Nat := 2 ^ ((word i).toNat / 2 ^ 29 % 4)
    let on (i k : Nat) : Bool := (rec' i 4 (128 / e i)).testBit k
    let below (i k : Nat) : Nat := (List.range k).countP (on i)
    let good (i : Nat) : Prop := (word i).getLsbD 31 = false ∧ e i ≤ 4 ∧ (word i).toNat % 2 ^ 16 = below i (1024 / e i) ∧
      4 + 128 / e i + below i (1024 / e i) * e i ≤ size
    let vec (i : Nat) : List Byte := (List.range (1024 / e i)).flatMap fun k =>
      leBytes (e i) (if on i k then rec' i (4 + 128 / e i + below i k * e i) (e i) else 0)
    let last := if m = n ∧ crc = true then 4 else 0
    Oldest s r o rest → Clean s r o → o.body = .cpy .cpyx d0 d1 ac ord → o.moved = 0 → o.segs = none → o.data = [] → o.crc = 0 →
    st.regs.phase.sets = none → s.logged st.owner = false → 1 ≤ size → sp % 64 = 0 →
    sp + 1024 * n + (if crc then 4 else 0) ≤ 0x1800000 →
    (∀ i < n, LocalHit s r (d0.toNat + size * i) size true false (x i)) →
    m ≤ n → (∀ i < m, good i) → (m < n → ¬good m) →
    ∃ t, exec (.copyComplete r o.id) s = .next t ∧ t.stream r = retired o rest (if m < n then 16 else 0) st ∧ t.mem = s.mem ∧
      (∀ i < m, readBytes (t.core r.core).spad (sp + 1024 * i) 1024 = vec i) ∧
      (last = 4 → readLE (t.core r.core).spad (sp + 1024 * n) 4 = (crc32c 0 ((List.range n).flatMap vec)).toNat) ∧
      ∀ a, a < sp ∨ sp + 1024 * m + last ≤ a → spad t a = spad s a

/-- R164, R165, R188, R382: the oldest D operation of a stream, once its tokens are set: TOKJ and FENCE retire with status 0, and an
operation that consumed an error retires with status 7 and no other effect. R56, R190, R191, R329: an ATOMM or ATOMR on local
pages, element after element, replaces the target by New of its operation, that of the floating adds being a cell of 32 bytes; ATOMR returns
what the target held. R266, R345:
GDONE signals the node of its launch, which completes with the last member's; GTRIG makes its trigger write. R281, R283, R361: a NOTIFY
hands its record to the own engine, to a peer, or to the egress buffer of a protected context. That a record for a peer counts as received,
and retires with status 0, once it is sent, is the model's (log 27). -/
def Obligations.DeviceOperationsComplete : Prop :=
  (∀ (r : SRef) (o : Op) (rest : List Op) (s : State),
     let retires (status : Nat) : Prop := exec (.dOperationComplete r o.id) s = .next (s.updStream r (retired o rest status))
     Oldest s r o rest →
     (Clean s r o → (o.body = .tokj ∨ ∃ scope sc, o.body = .fence scope sc) → retires 0) ∧
     (¬Clean s r o → (match o.body with
       | .tokj | .fence .. | .atom .. | .cbar .. | .cred .. | .gdone .. | .gtrig .. | .notify .. => True
       | _ => False) → retires 7)) ∧
  (∀ (r : SRef) (o : Op) (rest : List Op) (ret : Bool) (va c : W64) (op : BitVec 4) (x : Nat → Xlat) (key : Nat) (s : State),
     let st := s.stream r
     let n := c.toNat / 2 ^ 50 % 2 ^ 8 + 1
     let w := if op = 0 then 4 else if 2 ≤ op.toNat ∧ op.toNat ≤ 4 then 32 else 8
     let ow := if op = 0 ∨ op = 2 then 4 else if op = 3 ∨ op = 4 then 2 else if op = 11 then 16 else 8
     let sa := c.toNat % 2 ^ 25
     let ra := c.toNat / 2 ^ 25 % 2 ^ 25
     let bytes (m : Nat → Byte) (a k : Nat) : List Byte := (List.range k).map fun j => m (a + j)
     let put (m : Nat → Byte) (a : Nat) (bs : List Byte) : Nat → Byte := fun y =>
       if a ≤ y ∧ y < a + bs.length then bs.getD (y - a) 0 else m y
     let new (old opnd : List Byte) : List Byte :=
       let a : W64 := BitVec.ofNat 64 (leNat old)
       let y : W64 := BitVec.ofNat 64 (leNat opnd)
       match op.toNat with
       | 0 | 1 => leBytes w (a + y).toNat
       | 2 => cellSum old (.decode .fp32 (leNat opnd))
       | 3 => cellSum old (.decode .bf16 (leNat opnd))
       | 4 => cellSum old (.decode .fp16 (leNat opnd))
       | 5 => leBytes w (a &&& y).toNat
       | 6 => leBytes w (a ||| y).toNat
       | 7 => leBytes w (a ^^^ y).toNat
       | 8 => leBytes w (if a.slt y then y else a).toNat
       | 9 => leBytes w (if y.slt a then y else a).toNat
       | 10 => leBytes w y.toNat
       | _ => if old = opnd.take 8 then opnd.drop 8 else old
     Oldest s r o rest → Clean s r o → o.body = .atom ret va c op → o.moved = 0 →
     st.regs.phase.sets = none → s.logged st.owner = false → op.toNat ≤ 11 →
     va.toNat % w = 0 → sa % ow = 0 → sa + ow * n ≤ 0x1800000 → (ret = true → ra % w = 0 ∧ ra + w * n ≤ 0x1800000) →
     s.boundsOk st.owner va.toNat (n * w) true true = true →
     (∀ i < n, LocalHit s r (va.toNat + i * w) w true true (x i) ∧ leafKey (x i).leaf = key) →
     ∃ (t : State) (m p : Nat → Nat → Byte), exec (.dOperationComplete r o.id) s = .next t ∧
       (∀ a, m 0 a = s.memByte key a ∧ p 0 a = (s.core r.core).spad.get a 0) ∧
       (∀ i < n, let old := bytes (m i) (x i).pa w
         m (i + 1) = put (m i) (x i).pa (new old (bytes (p i) (sa + i * ow) ow)) ∧
         p (i + 1) = if ret then put (p i) (ra + i * w) old else p i) ∧
       (∀ a, t.memByte key a = m n a ∧ (t.core r.core).spad.get a 0 = p n a) ∧
       t.stream r = retired o rest 0 st) ∧
  ∀ (r : SRef) (o : Op) (rest : List Op) (d : W64) (s : State),
    let st := s.stream r
    let code := d.toNat % 2 ^ 8
    let a := d.toNat % 2 ^ 25
    let entry := s.peers.table.get (d.toNat / 2 ^ 32 % 2 ^ 8) []
    let b (n : Nat) : Nat := (entry.getD n 0).toNat
    let le (off n : Nat) : Nat := leNat ((entry.drop off).take n)
    let done (u : State) (status : Nat) : Prop := exec (.dOperationComplete r o.id) s = .next (u.updStream r (retired o rest status))
    Oldest s r o rest → Clean s r o →
    (o.body = .gdone d → (∀ l, st.launch = some l → l.node = none) → done s 19) ∧
    (∀ (l : LaunchInfo) (k i tries : Nat) (bad : List Nat) (g : Graph) (run : GRun) (n : GNode), o.body = .gdone d → st.launch = some l →
      l.node = some (k, i) → s.graph k = some g → g.run = some run → run.failed = none → run.nodes[i]? = some (.running l.id tries bad) →
      g.nodes[i]? = some n → (∀ x ∈ run.done, x.1 = i → x.2.1 ≠ l.gpos) →
      let mine := run.done.filter fun x => x.1 == i
      (mine.length + 1 < l.gsize →
        done (s.setGraph k (some { g with run := some { run with done := run.done ++ [(i, l.gpos, code)] } })) 0) ∧
      (mine.length + 1 = l.gsize → (∀ x ∈ mine, x.2.2 = 0) → code = 0 →
        (∀ j ∈ n.succ, ∃ c, run.nodes[j]? = some (.waiting c) ∧ n.succ.count j < c) → n.succ ≠ [] →
        ∃ t g' run', exec (.dOperationComplete r o.id) s = .next t ∧ t.stream r = retired o rest 0 st ∧
          t.graph k = some g' ∧ g'.run = some run' ∧ run'.failed = none ∧ run'.nodes[i]? = some .complete ∧
          ∀ j c, j ≠ i → run.nodes[j]? = some (.waiting c) → run'.nodes[j]? = some (.waiting (c - n.succ.count j)))) ∧
    (o.body = .gtrig d → o.sent = false → exec (.dOperationComplete r o.id) s =
      .next { s.updStream r (fun st => { st with dq := { o with sent := true } :: rest }) with
        fe := { s.fe with triggers := s.fe.triggers ++ [(st.owner, d, .stream r o.id)] } }) ∧
    (o.body = .notify d → st.regs.phase.sets = none → a % 32 = 0 → a + 32 ≤ 0x1800000 →
      (d.getLsbD 40 = true → ∃ u, exec (.uetNotifyMessage o.data) s = .next u ∧ (o.data.length = 32 → done u 0)) ∧
      (d.getLsbD 40 = false → ∀ m : PeerMsg,
        ((b 0 = 1 ∧ b 1 < 16 ∧ b 3 < 4 ∧ b 26 < 8 ∧ (∀ k, 27 ≤ k → b k = 0) ∧
            m = .write (.ualink (b 1 % 4) (b 1 / 4) (le 2 2)) (le 8 8) o.data) ∨
          b 0 = 3 ∧ b 7 = 0 ∧ b 26 < 8 ∧ (∀ k, 27 ≤ k → b k = 0) ∧
            m = .message (.uet (b 1) (le 4 3) (le 8 16) 0 (b 26) none) o.data) →
        (s.protected st.owner = false → done { s with peers := { s.peers with outbox := s.peers.outbox ++ [m] } } 0) ∧
        (s.protected st.owner = true → (∀ p ∈ s.recov, p.2.shut = false) → done { s with egress := [⟨st.owner, (s.recOf st.owner).interval, false, 32, m⟩] } 0)))

/-- R223, R239, R240, R277: a copy that meets a faulting page is suspended with a fault record and event 6; a resume lets it go on,
an abort retires it with status 14; either takes the record out of the buffer. R238, R242, R277: an invalidation takes the
entries of a context, or those of it that meet a range, out of every TLB; a counter that has reached ACTHR is cleared of it and
event 7 is posted. -/
def Obligations.FaultRecordsTlbsAndCounters : Prop :=
  (∀ (r : SRef) (o : Op) (s : State),
     let st := s.stream r
     let ctx := st.owner
     (∀ (rest : List Op) (d0 d1 : W64) (ac : BitVec 4) (ord : BitVec 2) (s1 : State) (cause level : Nat),
       let n := d1.toNat / 2 ^ 32 % 2 ^ 25
       Oldest s r o rest → Clean s r o → o.body = .cpy .cpy d0 d1 ac ord → d1.toNat / 2 ^ 62 = 0 → o.moved = 0 → o.segs = none →
       1 ≤ n → d1.toNat % 2 ^ 25 + n ≤ 0x1800000 →
       (∀ a y, d0.toNat ≤ a → a < d0.toNat + n → s.peekLeaf ctx (some r.core) a = some y → leafEgr y.leaf = 0) →
       s.boundsOk ctx d0.toNat n true false = true →
       s.translate ctx (some r.core) d0.toNat true false = (s1, .error (cause, level)) →
       ∃ t o' ev, exec (.translationFault r o.id) s = .next t ∧
         (t.stream r).dq = o' :: rest ∧ o'.id = o.id ∧ o'.moved = 0 ∧ o'.fault = some s1.nextFault ∧
         t.faults = s1.faults ++ [{ n := s1.nextFault, ctx := ctx, va := d0, core := r.core, strm := r.strm, src := 0
                                    cause := cause, level := level, write := false, tok := o.tok, who := .op r o.id }] ∧
         t.nextFault = s1.nextFault + 1 ∧ t.mast = s1.mast.post ev ∧ ev.type = 6 ∧ t.mem = s.mem) ∧
     (∀ f ∈ s.faults, r.core < numCores → s.nymenUp = true → (∀ g ∈ s.faults, g.n = f.n → g = f) → f.who = .op r o.id → s.dOp r o.id = some o →
       let closed : State := { s with faults := s.faults.filter fun g => g.n != f.n }
       exec (.faultResume f.n) s = .next (closed.updStream r fun st =>
         { st with dq := st.dq.map fun y => if y.id = o.id then { o with fault := none } else y }) ∧
       (o.body.isStreamCopy = false → exec (.faultAbort f.n) s = .next (closed.updStream r fun st =>
         { st with dq := st.dq.filter fun y => y.id != o.id
                   gens := if o.out = 0 then st.gens else st.gens.set o.out { set := true, status := 14 } {} })))) ∧
  (∀ (ctx die block : Nat) (range : Option (Nat × Nat)) (s : State),
     let goes (e : TlbEntry) : Bool := e.ctx == ctx && (match range with
       | none => true
       | some (va, n) => decide (e.va < va + n) && decide (va < e.va + e.size))
     let thr := (s.ctx ctx).acthr.toNat
     let counters := (s.die die).counters
     (∃ t, exec (.tlbInvalidate ctx range) s = .next t ∧
       (∀ c, (t.core c).tlb = (s.core c).tlb.filter fun e => !goes e) ∧
       (∀ d, (t.die d).tlb = (s.die d).tlb.filter fun e => !goes e) ∧
       (∀ r, t.stream r = s.stream r) ∧ t.mem = s.mem ∧ t.mast = s.mast) ∧
     (0 < thr → (∃ c ∈ counters, c.ctx = ctx ∧ c.block = block ∧ thr ≤ c.count) →
       exec (.accessCounterThreshold die ctx block) s = .next ((s.setDie die { s.die die with counters := counters.map fun c =>
         if c.ctx = ctx ∧ c.block = block then { c with count := c.count - thr } else c }).post 7 (okey 1 ctx)
           (BitVec.ofNat 64 (block % 2 ^ 48 * 2 ^ 16 + ctx % 2 ^ 16)) (BitVec.ofNat 64 (thr % 2 ^ 16 * 2 ^ 16 + die % 8)))))

/-- R176, R178, R197 to R200, R335: a barrier. Once every participant of the domain has arrived, the CBAR of each completes, with its
token and its level's count; it waits while one has not arrived. R197: of a barrier that a participant has completed already, or that the domain had completed
before its launch started, a late joiner completes its CBAR alone. R203: a peer device with a participant learns that it has arrived. Once every participant stands at a PHASE of
one KIND with its operations retired, each begins its phase; so does a late joiner alone. R56, R204, R205, R207 to R209: a router tree. In mode FXW a node adds the cells of its children, then its own elements. A CRED at a root
without children completes at once: its result block is the missing mask, the instance number and the elements or cells. A child's packet that comes before the node's own CRED is held. At its
deadline a node forwards its own contribution without those of its silent children. -/
def Obligations.BarriersAndTreesComplete : Prop :=
  (∀ (r : SRef) (level : Nat) (l : LaunchInfo) (s : State), r.core < numCores →
     let st := s.stream r
     let me : Member := { at_ := .live r, r := r, st := st }
     let dom := s.domain level me
     let now (t : State) (p : Member) : Option Stream := match p.at_ with
       | .live q => some (t.stream q)
       | .saved n => (t.saved[n]?).map fun i => i.st
     let apart : Prop := (dom.map fun p => p.at_).Nodup ∧ ∀ p ∈ dom, now s p = some p.st
     let count (u : Stream) : Nat := u.sys.cbars.get level 0
     let ended (c : Op) (ops : List Op) (u : Stream) : Stream :=
       { retired c ops 0 u with sys := { u.sys with cbars := u.sys.cbars.set level (count u + 1) 0 } }
     let past : Past := st.sys.past.get level {}
     let kinds (u : Stream) : List Bool := u.regs.phase.kinds.get level []
     let agrees (kind : Bool) : Prop := ∀ l, past.phases[(kinds st).length]? = some l → ∀ b ∈ l, b = kind
     let begun (kind : Bool) (u : Stream) : Stream := { u with phaseWait := none, regs := { u.regs with phase :=
       { active := true, kind := kind, sets := none, kinds := u.regs.phase.kinds.set level (kinds u ++ [kind]) [] } } }
     let waits (u : Stream) (kind : Bool) : Prop := (∃ w, u.phaseWait = some w ∧ w.level = level ∧ w.value.getLsbD 31 = kind) ∧
       u.mq = [] ∧ u.pq = [] ∧ u.xq = [] ∧ u.dheld = [] ∧ u.dq = [] ∧ u.traps = [] ∧ u.regs.phase.active = false ∧ u.det = false
     let others (t : State) : Prop := (∀ q, (∀ p ∈ dom, p.at_ ≠ .live q) → t.stream q = s.stream q) ∧ t.mem = s.mem
     st.launch = some l → s.members.filter (fun m => m.r == r) = [me] →
     (∀ (o : Op) (rest : List Op), Oldest s r o rest → Clean s r o → o.body = .cbar level →
       (s.remotesOf level st = [] → dom = [me] → exec (.barrierComplete r level) s = .next (s.updStream r (ended o rest))) ∧
       (s.remotesOf level st = [] → apart → past.cbars ≤ count st → (∀ p ∈ dom, count p.st = count st ∧ ∃ c ops, p.st.dq = c :: ops ∧ c.body = .cbar level ∧
           c.stage = .queued ∧ (∀ g ∈ c.ins, (p.st.gen g).set = true ∧ (p.st.gen g).status < 2) ∧ ∀ y ∈ ops, c.id < y.id) →
         ∃ t, exec (.barrierComplete r level) s = .next t ∧ others t ∧
           ∀ p ∈ dom, ∀ c ops, p.st.dq = c :: ops → now t p = some (ended c ops p.st)) ∧
       (s.remotesOf level st = [] → (count st < past.cbars ∨ ∃ p ∈ dom, count st < count p.st) →
         ∃ t, exec (.barrierComplete r level) s = .next t ∧ t.stream r = ended o rest st ∧ (∀ q, q ≠ r → t.stream q = s.stream q) ∧ t.mem = s.mem) ∧
       (s.remotesOf level st = [] → past.cbars ≤ count st → (∀ p ∈ dom, count p.st ≤ count st) → (∃ p ∈ dom, p.st.dq = []) →
         exec (.barrierComplete r level) s = .next s) ∧
       (past.cbars ≤ count st → (∃ p ∈ s.remotesOf level st, p.cbars ≤ count st) → (∀ p ∈ s.remotesOf level st, p.cbars ≤ count st + 1) →
         (∀ p ∈ dom, count p.st ≤ count st) → o.sent = false → exec (.barrierComplete r level) s = .next
         { s.updStream r (fun st => { st with dq := { o with sent := true } :: rest }) with
           peers := { s.peers with outbox := s.peers.outbox ++ [.barrier l.group r (count st) none] } })) ∧
     (∀ kind : Bool, waits st kind → s.remotesOf level st = [] →
       (dom = [me] → agrees kind → exec (.barrierComplete r level) s = .next (s.updStream r (begun kind))) ∧
       (apart → past.phases.length ≤ (kinds st).length → (∀ p ∈ dom, (kinds p.st).length = (kinds st).length ∧ waits p.st kind) →
         ∃ t, exec (.barrierComplete r level) s = .next t ∧ others t ∧ ∀ p ∈ dom, now t p = some (begun kind p.st)) ∧
       ((kinds st).length < past.phases.length ∨ (∃ p ∈ dom, (kinds st).length < (kinds p.st).length) → agrees kind →
         (∀ p ∈ dom, (kinds st).length < (kinds p.st).length → (kinds p.st)[(kinds st).length]? = some kind) →
         ∃ t, exec (.barrierComplete r level) s = .next t ∧ t.stream r = begun kind st ∧ (∀ q, q ≠ r → t.stream q = s.stream q) ∧
           t.mem = s.mem))) ∧
  (∀ (kids : List (List (W128 × W64))) (own : List (W128 × W64)) (n k : Nat), kids ≠ [] → (∀ l ∈ kids, l.length = n) → own.length = n → k < n →
     let at' (l : List (W128 × W64)) : W128 × W64 := l.getD k (0, 0)
     let v : W128 := (kids.map fun l => (at' l).1).foldl (· + ·) 0
     let fw : W64 := (kids.map fun l => (at' l).2).foldl (· ||| ·) 0 &&& 0x1F
     let cell (e : W128 × W64) : List Byte := leBytes 16 e.1.toNat ++ leBytes 8 e.2.toNat ++ List.replicate 8 0
     (combine true kids none)[k]? = some (v, fw) ∧
     ∃ e, (combine true kids (some own))[k]? = some e ∧ cell e = cellSum (cell (v, fw)) (.decode .fp32 ((at' own).1.toNat % 2 ^ 32))) ∧
  (∀ (r : SRef) (l : LaunchInfo) (o : Op) (rest : List Op) (d0 d1 : W64) (fxw : Bool) (d : TreeDesc) (s : State), r.core < numCores →
     let st := s.stream r
     let c := s.core r.core
     let sa := d1.toNat % 2 ^ 25
     let ra := d1.toNat / 2 ^ 25 % 2 ^ 25
     let n := d1.toNat / 2 ^ 50 % 2 ^ 8 + 1
     let w := if fxw then 32 else 4
     let tree := treeNo (s.ctx l.ctx).partition d.tid
     let node := s.treeNode r.core tree
     (r.strm = .main → st.launch = some l → Oldest s r o rest → Clean s r o → o.body = .cred d0 d1 fxw → o.inst = none →
       st.regs.phase.sets = none → s.logged l.ctx = false →
       credCheck c st (s.partOf l.ctx).cores r.core d0 d1 fxw = .ok d → d.nodes = [(r.core, 0xFFFF, [])] →
       node.insts = [] → node.gone = [] → node.count = 0 → node.full = false →
       ∃ t, exec (.routerPacketArrival r.core tree r.core) s = .next t ∧ t.stream r = retired o rest 0 st ∧
         readBytes (t.core r.core).spad ra 32 = List.replicate 32 0 ∧
         (∀ k < n, readBytes (t.core r.core).spad (ra + 32 + w * k) w =
           if fxw then cellSum (List.replicate 32 0) (.decode .fp32 (readLE c.spad (sa + 4 * k) 4)) else readBytes c.spad (sa + 4 * k) 4) ∧
         (∀ a, a < ra ∨ ra + 32 + w * n ≤ a → (t.core r.core).spad.get a 0 = c.spad.get a 0) ∧ t.mem = s.mem) ∧
     (∀ (tid k : Nat) (p : TreePkt), s.fabric.flight = [(r.core, tid, k, p)] → p.src ≠ r.core → (s.treeNode r.core tid).insts = [] →
       (s.treeNode r.core tid).full = false → k ∉ (s.treeNode r.core tid).gone →
       ∃ t i, exec (.routerPacketArrival r.core tid p.src) s = .next t ∧ t.fabric.flight = [] ∧ (t.treeNode r.core tid).insts = [i] ∧
         i.k = k ∧ i.own = none ∧ i.pkts = [p] ∧ i.heard = [p.src] ∧ i.since = s.time ∧ t.cores = s.cores ∧ t.mem = s.mem) ∧
     (∀ (tid kid : Nat) (i : TreeInst) (p : TreePkt), (s.treeNode r.core tid).insts = [i] → i.own = some p → i.pkts = [] →
       i.heard = [] → i.detFrom = [] → p.det = false → p.fxw = false → 0 < p.dln → i.since + p.dln ≤ s.time →
       treeKids p.desc r.core = [kid] → treeKids p.desc kid = [] → treeParent p.desc r.core ≠ 0xFFFF →
       ∃ t, exec (.treeDeadline r.core tid) s = .next t ∧ (t.treeNode r.core tid).insts = [] ∧
         i.k ∈ (t.treeNode r.core tid).gone ∧ t.cores = s.cores ∧ t.mem = s.mem ∧
         t.fabric.flight = s.fabric.flight ++ [(treeParent p.desc r.core, tid, i.k,
           { p with src := r.core, present := p.present.eraseDups, ctxs := p.ctxs.eraseDups, raddr := 0 })]))

/-! ### Checkpoints, traps and contexts -/

/-- R81, R85, R86, R346: the commit of a checkpoint, for a stream alone in its gang, once its earlier M, P and X operations have
retired. The withheld bytes reach the scratchpad, then the held atomics act in issue order (R174), the held D operations are dispatched in order, the duplicate is the stream's
registers, the images are empty; after HALT the stream has halted. R175: behind an ASWAP or ACAS it commits at once. R298: while a crash of
Nymen has frozen the stream nothing is committed; that this holds off the whole commit is the model's (log 59). -/
def Obligations.CheckpointCommits : Prop :=
  ∀ (r : SRef) (q : CkptReq) (s : State), r.core < numCores → s.gang r = [r] →
    let st := s.stream r
    (st.frozen.nymen = true → exec (.checkpointCommit r) s = .next s) ∧
    (st.frozen.nymen = false → st.ckpt = some q → st.shroud = [] → s.logged st.owner = false → SMap.canon none st.withheld = true →
    (q.swap = false ∧ (q.after = .go ∨ q.after = .halt) ∧ st.traps = [] ∧ st.phaseWait = none ∧
      (∀ o ∈ st.mq ++ st.pq ++ st.xq, q.before ≤ o.id)) ∨ (q.swap = true ∧ q.after = .go) →
    ∃ t, exec (.checkpointCommit r) s = .next t ∧ t = s.setCore r.core (t.core r.core) ∧
      t.core r.core = { putStream (s.core r.core) r.strm { st with
        dup := st.regs, dupId := st.nextId, dupR := st.groupR, dupW := st.groupW
        withheld := [], atoms := [], beforeV := [], beforeQ := [], tileImgs := [], statImgs := [], dheld := []
        dq := (t.stream r).dq, ckpt := none, ckptAt := some st.regs.pc
        run := if q.after = .halt then .halted else st.run } with spad := (t.core r.core).spad } ∧
      (∃ l, (t.stream r).dq = st.dq ++ l ∧ l.map (fun o => { o with data := [] }) =
        st.dheld.map fun o => { o with data := [] }) ∧
      ∃ m : SMap Byte, (∀ a, m.get a 0 = (st.withheld.get a none).getD ((s.core r.core).spad.get a 0)) ∧
        (t.core r.core).spad = st.atoms.foldl applyAtomic m)

/-- R86, R227, R285, R286, R288, R290: the trap of a stream alone in its gang, with no M, P or X operation in flight; R175: it waits for
the commit behind an ASWAP or ACAS. Its registers
are those of the last checkpoint, its v and q registers and tiles those of the images, what was withheld or held is gone.
TCAUSE, FAULTPC and CKPTPC tell the cause; by TDELEG the stream stops and event 5 is posted, or it enters the user handler; a cause raised
in the user handler goes to level 1.
R287: of several detected causes, cause 14 goes first, then cause 13, then the cause of the earliest bundle, and of one bundle
the lowest code. R82: the TSTAT of a tile is restored too. That the phase in progress and the open group go back to the checkpoint is the
model's (logs 18 and 48), and so is that nothing else of the stream changes (log 32). -/
def Obligations.TrapsAreTaken : Prop :=
  (∀ (r : SRef) (c : TrapCause) (s : State), r.core < numCores → s.gang r = [r] →
     let st := s.stream r
     let core := s.core r.core
     let e := s.ctx st.owner
     let word (level : Nat) : W64 := c.gpos ++ c.detail ++ (0 : BitVec 22) ++ BitVec.ofNat 2 level ++ BitVec.ofNat 8 c.cause
     let asked := e.tdeleg.toNat / 4 ^ c.cause % 4
     let wish := if st.regs.handler.isSome then 1 else if asked = 3 then 0 else if asked = 2 ∧ e.uhentry = BitVec.allOnes 64 then 1 else asked
     let level := if c.cause = 10 then 0 else if c.cause = 12 then min wish 1 else wish
     let back (t : State) (regs : Regs) (run : RunState) (rd wr : List RegId) : Prop :=
       (∃ q, t.stream r = { st with
         regs := regs, q := q, withheld := [], atoms := [], beforeV := [], beforeQ := [], tileImgs := [], statImgs := [], dheld := []
         dq := st.dq.filter (fun o => decide (o.id < st.dupId)), ckpt := none, ckptAt := none, phaseWait := none
         groupR := rd, groupW := wr, shroud := [], traps := [], run := run
         sys := { st.sys with tcause := word level, faultpc := c.pc.setWidth 64, ckptpc := st.dup.pc.setWidth 64 } } ∧
         ∀ n, q.get n 0 = (st.beforeQ.lookup n).getD (st.q.get n 0)) ∧
       (∀ n, (t.core r.core).v.get n 0 = (st.beforeV.lookup n).getD (core.v.get n 0)) ∧
       (∀ n, let z := (st.tileImgs.lookup n).getD (core.tiles.get n {})
         (t.core r.core).tiles.get n {} = match st.statImgs.lookup n with
           | some y => { z with tstat := y.1, late := y.2 }
           | none => z) ∧
       (t.core r.core).spad = core.spad ∧ t.mem = s.mem
     (s.swapOpen r = true → exec (.trapTaken r) s = .next s) ∧
     (s.swapOpen r = false → st.mq = [] → st.pq = [] → st.xq = [] → pickTrap st.traps = some c → c.cause < 13 →
     (st.beforeV.map Prod.fst).Nodup → (st.beforeQ.map Prod.fst).Nodup → (st.tileImgs.map Prod.fst).Nodup →
     (st.statImgs.map Prod.fst).Nodup →
     (level ≠ 2 → ∃ t, exec (.trapTaken r) s = .next t ∧ back t st.dup .stopped st.dupR st.dupW ∧
       ∃ ev, t.mast = s.mast.post ev ∧ ev.type = 5 ∧ ev.arg1 = word level) ∧
     (level = 2 → ∃ t, exec (.trapTaken r) s = .next t ∧ t.mast = s.mast ∧ back t
         { st.dup with handler := some { pc := st.dup.pc, loops := st.dup.loops, holds := st.dup.holds }
                       pc := e.uhentry.setWidth 48, loops := [], holds := {} } st.run [] []))) ∧
  (∀ l : List TrapCause,
     let cls (c : TrapCause) : Nat := if c.cause = 14 then 0 else if c.cause = 13 then 1 else 2
     (l ≠ [] → ∃ c, pickTrap l = some c ∧ c ∈ l ∧ ∀ d ∈ l, cls c < cls d ∨ cls c = cls d ∧
       (c.bundle < d.bundle ∨ c.bundle = d.bundle ∧ c.cause ≤ d.cause)) ∧
     ∀ l : List (Nat × BitVec 29), l ≠ [] → ∃ t, lowest l = some t ∧ t ∈ l ∧
       ∀ u ∈ l, t.1 = 13 ∨ u.1 ≠ 13 ∧ t.1 ≤ u.1)

/-- R88, R285 to R289: a stopped stream, alone in its gang, goes on with its handler's changes and asks for a checkpoint of them, unless its context is being ended (R297); a trap that
the partition agent has is passed to Nymen with event 5; an overdue safe point raises cause 10 behind the operations in flight, but no more once the stream has executed HALT (R346). The FAULTPC of
cause 10, the next address, and the restart of the count are the model's (log 33). -/
def Obligations.TrapHandlersAnswer : Prop :=
  ∀ (r : SRef) (n : BitVec 6) (v : W64) (s : State), r.core < numCores → s.gang r = [r] →
    let st := s.stream r
    let regs := st.regs.put .a n.toNat v
    (s.mast.ending.get st.owner none ≠ none → exec (.trapContinue r [(r, .a n v)]) s = .next s) ∧
    (s.nymenUp = true → st.run = .stopped → s.mast.ending.get st.owner none = none →
      exec (.trapContinue r [(r, .a n v)]) s = .next (s.updStream r fun st => { st with
        regs := regs, run := .running, ckpt := some { before := st.nextId, after := .go } })) ∧
    (s.nymenUp = true → st.run = .stopped → s.mast.ending.get st.owner none = none → st.sys.tcause.toNat / 2 ^ 8 % 4 = 1 →
      let word := st.sys.tcause &&& ~~~0x300
      ∃ ev, exec (.trapEscalate r) s = .next { s.updSys r fun y => { y with tcause := word } with mast := s.mast.post ev } ∧
        ev.type = 5 ∧ ev.arg1 = word) ∧
    (∀ q, st.ckpt = some q → q.after = .halt → exec (.safePointOverdue r) s = .next s) ∧
    (st.run = .running ∨ st.run = .saved → st.frozen = {} → (∀ q, st.ckpt = some q → q.after ≠ .halt) → st.freezeReq = false →
      st.sys.safemax.toNat % 2 ^ 32 < st.sys.safeCount → st.traps = [] → st.shroud = [] → s.swapOpen r = false → st.mq ++ st.pq ++ st.xq ≠ [] →
      exec (.safePointOverdue r) s = .next (s.updStream r fun st => { st with
        sys := { st.sys with safeCount := 0 }
        traps := [{ cause := 10, pc := st.regs.pc, bundle := st.bundleNo + 1
                    gpos := BitVec.ofNat 3 ((st.launch.map (·.gpos)).getD 0) }] }))

/-- R65, R121, R292, R293: a pre-emption is asked of a stream; the stream that stands at its boundary with nothing in flight is
saved and leaves its core; a gated cluster wakes; the Mizzen goes first after 16 cycles. R62, R119, R292 to R294, R310: a saved
stream is restored on a free stream of a core of its partition: every register, its queues and its duplicate as saved, its
scratchpad and its v registers, the requested point 5; its context runs. R88, R277, R297: a termination stops the streams of its
context at once; when no dispatched D operation is left its entry says terminated and event 10 is posted with the notice word
(bit 8 set when the word could not be written). Where the image is kept (log 19), the holds that it keeps (log 47), the program store at a
restore (log 53) and the order of a termination (log 34) are the model's. -/
def Obligations.ContextsAreSavedRestoredAndEnded : Prop :=
  (∀ (r : SRef) (cl : Nat) (l : LaunchInfo) (s : State), r.core < numCores → s.gang r = [r] →
     let st := s.stream r
     let c := s.core r.core
     st.launch = some l →
     (s.nymenUp = true → s.mast.ending.get st.owner none = none → exec (.preemptionRequest r) s = .next (s.updStream r fun st => { st with preempt := true })) ∧
     (st.preempt = true → st.run = .saved → st.mq = [] → st.pq = [] → st.xq = [] → st.dheld = [] → st.dq = [] →
       st.ckpt = none → ∃ t, exec (.preemptionLand r) s = .next t ∧
         t.saved = s.saved ++ [{ r := r, ctx := l.ctx
                                 st := { st with run := .running, preempt := false, freezeReq := false, debugReq := false, frozen := {} }
                                 v := c.v.filter fun p => l.vcl.getLsbD (p.1 / 64)
                                 tdeleg := (s.ctx l.ctx).tdeleg, contain := (s.ctx l.ctx).contain }] ∧
         (t.stream r).launch = none ∧ (t.stream r).run = .idle ∧ (∀ q, q ≠ r → t.stream q = s.stream q) ∧
         t.mem = s.mem ∧ (s.ctxStreams l.ctx = [r] → (t.ctx l.ctx).state = 2)) ∧
     (cl < 10 → ∃ g : BitVec 10, exec (.clusterWake r cl) s = .next (s.updSys r fun y => { y with gatedClusters := g }) ∧
       ∀ n, g.getLsbD n = (st.sys.gatedClusters.getLsbD n && n != cl)) ∧
     (16 ≤ c.mizBlocked → c.mizAt = c.cycle → exec (.mizzenPrioritySwap r.core) s = .next
       { s.updCore r.core fun c => { c with mizBlocked := 0, swap := true } with cur := { core := r.core, strm := .miz } })) ∧
  (∀ (r : SRef) (ctx : Nat) (img : SavedImg) (l : LaunchInfo) (spad : SMap Byte) (s : State), r.core < numCores →
     s.nymenUp = true → s.mast.ending.get ctx none = none → (∀ o ∈ img.st.dq, o.after = []) → s.fe.pending = [] → (s.core img.r.core).undo = [] → s.saved = [img] → img.ctx = ctx → img.r.strm = r.strm → img.st.launch = some l → l.gpos = 0 → l.zt ≤ 4 →
     img.spad = some spad → (img.v.map Prod.fst).Nodup → (∀ p ∈ img.v, l.vcl.getLsbD (p.1 / 64) = true) →
     (s.core r.core).main.launch = none → (s.core r.core).miz.launch = none → (s.partOf ctx).cores.contains r.core = true →
     ∃ t, exec (.contextRestore r ctx) s = .next t ∧ t.saved = [] ∧ (t.ctx ctx).state = 1 ∧
       (t.ctx ctx).tdeleg = img.tdeleg ∧ (∀ n, (t.ctx ctx).contain.getLsbD n = (if n = 2 then (s.ctx ctx).contain else img.contain).getLsbD n) ∧
       t.stream r = { img.st with
         bank := some ctx, launch := some { l with lead := r.core }, ckptAt := some img.st.regs.pc
         sys := { img.st.sys with oppReq := 5 }, dq := img.st.dq.map fun o => { o with halted := false } } ∧
       (t.core r.core).spad = spad ∧ (∀ p ∈ img.v, (t.core r.core).v.get p.1 0 = p.2) ∧ t.mem = s.mem) ∧
  (∀ (ctx : Nat) (s : State),
     (s.nymenUp = true → (s.ctx ctx).state ≠ 4 → s.mast.ending.get ctx none = none → s.fe.pending = [] →
       (∀ r ∈ s.ctxStreams ctx, (s.stream r).run ≠ .stopped) → (∀ i ∈ s.saved, i.ctx = ctx → i.st.run ≠ .stopped) →
       (∃ r ∈ s.ctxStreams ctx, ∃ o ∈ (s.stream r).dq, o.ins = [] ∧ o.stage = .queued ∧ ∃ d, o.body = .notify d) →
       ∃ t, exec (.contextTerminate ctx) s = .next t ∧ t.mast.ending.get ctx none = some (0x83, false) ∧
         (∀ r ∈ s.ctxStreams ctx, (t.stream r).run = .stopped ∧ (t.stream r).mq = [] ∧ (t.stream r).pq = [] ∧
           (t.stream r).xq = [] ∧ (t.stream r).dheld = [] ∧ (t.stream r).withheld = [] ∧ (t.stream r).atoms = []) ∧
         (∀ r, r ∉ s.ctxStreams ctx → t.stream r = s.stream r) ∧ t.mem = s.mem) ∧
     (∀ reason hard, s.mast.ending.get ctx none = some (reason, hard) →
       (∀ r ∈ s.ctxStreams ctx, (s.stream r).busy = false) →
       ∃ (t : State) (m : Mast) (ev : EventRec), exec (.contextTerminate ctx) s = .next t ∧ (t.ctx ctx).state = 4 ∧ t.mast.ending.get ctx none = none ∧
         t.mast = m.post ev ∧ ev.type = 10 ∧ ev.arg0 = BitVec.ofNat 64 ctx ∧
         (ev.arg1 = noticeWord ctx reason ∨ ev.arg1 = noticeWord ctx reason ||| 0x100)))

/-- R299: a recovery point of a context with ROLLBACK = 1. When one is due (a log or the egress buffer is full, a barrier asks for it, or
INTV ms have passed) every running stream of the context is asked to freeze; once all stand still their images go to the area
not written last, the logs are emptied of the context's records, the interval's held egress is released, and the streams thaw. Where the images
are kept, so that no byte of memory changes here, is the model's (logs 19 and 35). -/
def Obligations.RecoveryPointsAreTaken : Prop :=
  ∀ (ctx : Nat) (s : State),
    let r := s.recOf ctx
    let l := s.ctxStreams ctx
    (flag (s.ctx ctx).contain 1 = true →
      (r.full = true ∨ r.due = true ∨ r.last + 1000 * ((s.ctx ctx).contain.toNat / 2 ^ 16 % 256) ≤ s.time) →
      ∃ t, exec (.recoveryPoint ctx) s = .next t ∧ t.recOf ctx = { r with taking := true } ∧ t.mem = s.mem ∧
        (∀ m ∈ l, t.stream m = if (s.stream m).run = .running ∧ (s.stream m).frozen.recovery = false
          then { s.stream m with freezeReq := true } else s.stream m) ∧
        ∀ m, m ∉ l → t.stream m = s.stream m) ∧
    (r.taking = true →
      (∀ m ∈ l, (s.stream m).frozen.recovery = true ∧ (s.stream m).mq = [] ∧ (s.stream m).pq = [] ∧ (s.stream m).xq = [] ∧
        (s.stream m).ckpt = none ∧ (s.stream m).shroud = [] ∧ (s.stream m).traps = [] ∧ (s.stream m).dq = []) →
      ∃ t, exec (.recoveryPointComplete ctx) s = .next t ∧ t.mem = s.mem ∧
        (t.recOf ctx).interval = r.interval + 1 ∧ (t.recOf ctx).last = s.time ∧ (t.recOf ctx).log = [] ∧
        (t.recOf ctx).area = 1 - r.area ∧ (t.recOf ctx).valid = true ∧ (t.recOf ctx).taking = false ∧ (t.recOf ctx).full = false ∧
        (t.recOf ctx).due = false ∧ (t.recOf ctx).shut = false ∧
        (∀ m ∈ l, ∃ i ∈ (t.recOf ctx).images, i.r = m ∧ i.st.regs = (s.stream m).regs ∧ i.st.dup = (s.stream m).dup ∧
          i.st.sys = (s.stream m).sys ∧ i.st.q = (s.stream m).q ∧ i.st.dheld = (s.stream m).dheld) ∧
        (∀ n, (t.core n).undo = (s.core n).undo.filter (fun e => e.1 != ctx) ∧ (t.core n).spad = (s.core n).spad) ∧
        (∀ m ∈ l, t.stream m = { s.stream m with frozen := { (s.stream m).frozen with recovery := false } }) ∧
        (∀ m, m ∉ l → t.stream m = s.stream m) ∧
        t.egress = s.egress.map fun e => if e.ctx = ctx then { e with released := true } else e)

/-- R18, R277, R286, R297, R301: an error. An uncorrectable memory error posts event 8, and ends an unprotected context that maps
the line with REASON 0x82; a core's hardware error ends an unprotected context with that REASON. A protected context with a
complete recovery image goes back to it: its records of the logs are applied, its held egress is discarded, its stream is what the image
says, binding logs, the count of R289 and the requested point apart. A core's error is first taken as cause 14, with event 5. Where the images are
kept is the model's (log 19), and so is that a rollback applies the context's own records of a core's log alone and removes no other (log 35). -/
def Obligations.ErrorsStrikeContexts : Prop :=
  ∀ (pa core unit ctx : Nat) (e : CtxEntry) (r : SRef) (st : Stream) (l : LaunchInfo) (s : State), core < numCores →
    (pa < memSize → (∀ p ∈ s.mast.registry, s.maps p.1 (pa / 64) = false) → s.keys.lines.get (pa / 64) none = none →
      exec (.uncorrectableMemoryError pa) s = .next { s with
        mast := s.mast.post ⟨8, BitVec.ofNat 32 (3 * 2 ^ 28), BitVec.ofNat 64 pa, BitVec.ofNat 64 (pa / 2 ^ 36), s.time⟩
        memctl := { s.memctl with bad := s.memctl.bad.set (pa / 64) true false } }) ∧
    (pa < memSize → s.mast.registry = [(ctx, e)] → e.state = 1 → s.maps ctx (pa / 64) = true → flag e.contain 1 = false →
      s.ctxStreams ctx = [] →
      ∃ (t : State) (m : Mast) (ev : EventRec), exec (.uncorrectableMemoryError pa) s = .next t ∧ (t.ctx ctx).state = 4 ∧
        t.mast = m.post ev ∧ ev.type = 10 ∧ ev.arg0 = BitVec.ofNat 64 ctx ∧
        (ev.arg1 = noticeWord ctx 0x82 ∨ ev.arg1 = noticeWord ctx 0x82 ||| 0x100)) ∧
    (s.streams = [(r, st)] → s.stream r = st → r.core = core → st.launch = some l → l.ctx = ctx → st.dq = [] →
      flag (s.ctx ctx).contain 1 = false →
      ∃ (t : State) (m : Mast) (ev : EventRec), exec (.coreHardwareError core unit) s = .next t ∧ (t.ctx ctx).state = 4 ∧
        t.mast = m.post ev ∧ ev.type = 10 ∧ ev.arg0 = BitVec.ofNat 64 ctx ∧
        (ev.arg1 = noticeWord ctx 0x82 ∨ ev.arg1 = noticeWord ctx 0x82 ||| 0x100)) ∧
    (∀ (i : SavedImg) (y : LaunchInfo), s.streams = [(r, st)] → s.gang r = [r] → s.stream r = st → r.core = core → st.launch = some l → l.ctx = ctx →
      s.saved = [] → flag (s.ctx ctx).contain 1 = true → flag (s.ctx ctx).contain 2 = false → (s.recOf ctx).valid = true →
      (s.recOf ctx).images = [i] → i.r = r → i.st.launch = some y → y.id = l.id → y.gpos = l.gpos → (∀ o ∈ i.st.dq, o.after = []) →
      ∃ t, exec (.coreHardwareError core unit) s = .next t ∧
        t.mem = (s.recOf ctx).log.foldl (fun m p => writeBytes m p.1 p.2.1) s.mem ∧
        (t.core core).spad = ((s.core core).undo.filter fun e => e.1 == ctx).foldl (fun m e => writeBytes m (64 * e.2.1) e.2.2) (s.core core).spad ∧
        (t.core core).undo = (s.core core).undo.filter (fun e => e.1 != ctx) ∧
        t.egress = s.egress.filter (fun x => x.ctx != ctx || x.released) ∧
        t.stream r = { i.st with
          bank := st.bank, launch := some { y with lead := l.lead }
          dq := i.st.dq.map fun o => { o with halted := false }
          frozen := { i.st.frozen with nymen := st.frozen.nymen }
          sys := { i.st.sys with blogm := st.sys.blogm, blogp := st.sys.blogp, seqm := st.sys.seqm, seqp := st.sys.seqp
                                 safeCount := st.sys.safeCount, oppReq := st.sys.oppReq } } ∧
        t.recOf ctx = { s.recOf ctx with log := [], taking := false, full := false, due := false, shut := false } ∧
        ∃ ev, ev.type = 5 ∧ t.mast = (s.mast.post ev).post ⟨10, BitVec.ofNat 32 (2 ^ 28 + ctx % 2 ^ 28), BitVec.ofNat 64 ctx, BitVec.ofNat 64 (ctx % 2 ^ 16 * 2 ^ 48), s.time⟩)

/-! ### Bundles and steps -/

/-- R61, R66, R77, R94, R95: a turn of the agenda is a step; with none left and no agent due, the current stream fetches the bundle
at its PC, and the step is what that bundle's slot does, between the bundle's opening and the choice of its next address. R311: an OPP waits
for a transition that begins in its cycle. R120,
R121: a Mizzen bundle that needs a slot of Main's bundle of the same cycle does not issue in it, and is counted. The opening,
the default schedule and the order of turns are the model's (log 1). -/
def Obligations.StepRunsTheDecodedBundle : Prop :=
  (∀ (i : Instr) (rest : List Turn) (s : State), s.agenda = .event i :: rest → step s = exec i { s with agenda := rest }) ∧
  ∀ (i : Instr) (f : Flags) (s : State), s.agenda = [] → nextEvent s = none → s.cur.core < numCores → s.frame = {} →
    let st := s.me
    let c := s.core s.cur.core
    let l := st.launch.getD {}
    let pc := st.regs.pc.toNat
    let size := bundleLen (headerOf (lineBytes c pc))
    let npc : W48 := BitVec.ofNat 48 (pc + size)
    let w := weight f.ew true
    let s0 := s.setCore s.cur.core { pay (tick c 1) w with
      quiet := 0, mizBlocked := if s.cur.strm = .miz then 0 else c.mizBlocked
      lane := { (tick c 1).lane with used := (tick c 1).lane.used || (occupied [i] []).contains .V }
      half := some { first := s.cur.strm, occ := occupied [i] [] } }
    let opened := openBundle s0 st.regs.pc npc (match i with | .lit v => some v | _ => none)
    let waits : Prop := ∃ g v, i = .opp g v ∧ guardHolds s.src.regs g = true ∧ (tick c 1).power.trans ≠ none
    st.mayIssue = true → l.gpos = 0 → s.gang s.cur = [s.cur] → turnOf s s.cur = some s.cur → st.regs.holds = {} →
    pc + size < 64 * l.tlen → isFill (headerOf (readBytes c.prog pc 2)) = false →
    isFill (headerOf (readBytes c.prog (pc + size) 2)) = false →
    (∀ e, decodeBundle size (lineBytes c pc) = .error e →
      step s = .next (passTurn (s.raise s.cur 2 (BitVec.ofNat 29 e.subcode) st.regs.pc))) ∧
    (decodeBundle size (lineBytes c pc) = .ok { flags := f, slots := [i] } → i.slot ≠ none → prepAll s [i] = .go →
      c.half = none → laneStall (tick c 1) (occupied [i] []) = false →
      (waits → step s = .next (passTurn (s.setCore s.cur.core { tick c 1 with
        mizBlocked := if s.cur.strm = .miz then 0 else c.mizBlocked, half := some { first := s.cur.strm } }))) ∧
      (¬waits → affords (tick c 1) w = true → (∀ cause detail, lowest (bundleTraps (s.atBundle st.regs.pc npc) [i] []) = some (cause, detail) →
        step s = .next (passTurn (s.raise s.cur cause detail st.regs.pc))) ∧
      (lowest (bundleTraps (s.atBundle st.regs.pc npc) [i] []) = none → ∀ t, exec i opened = .next t →
        step s = .next (passTurn ((t.updStream t.cur fun u =>
          let p := closePC t.frame npc u
          flagRequests f st.nextId (closeGroup p.2 t.frame.unhold f.stop (bundleReads st.regs [i] []) (bundleWrites st.regs [i] [])
            { p.1 with ckptAt := none })).setFrame {}))))) ∧
    (∀ h : HalfCycle, decodeBundle size (lineBytes c pc) = .ok { flags := f, slots := [i] } → i.slot ≠ none → prepAll s [i] = .go →
      c.half = some h → h.first = .main → s.cur.strm = .miz → h.stall = false → (occupied [i] []).any h.occ.contains = true → laneStall c (occupied [i] []) = false →
      step s = .next (passTurn (s.setCore s.cur.core { c with
        half := none, mizAt := c.cycle, mizBlocked := (if c.mizAt + 1 = c.cycle then c.mizBlocked else 0) + 1 })))

/-- R74, R77, R81, R89, R95, R195, R289: an empty bundle with no hold armed moves its stream on by 2 bytes and obeys its flags; a
member of a gang takes the lead's transfer for a branch of the lead. -/
def Obligations.EmptyAndSharedBundles : Prop :=
  ∀ (f : Flags) (r : SRef) (it : ShroudItem) (rest : List ShroudItem) (s : State), s.cur.core < numCores → r.core < numCores →
    let st := s.me
    let mem := s.stream r
    (st.mayIssue = true → s.gang s.cur = [s.cur] → turnOf s s.cur = some s.cur → isFill (headerOf (readBytes (s.core s.cur.core).prog (st.regs.pc + 2).toNat 2)) = false → f.ew ≠ 31 → st.regs.holds = {} → st.regs.fmtPend = none →
      st.regs.loops = [] → lineCount st.withheld ≤ 1024 → st.preempt = false → st.freezeReq = false → st.debugReq = false →
      (s.core s.cur.core).half = none → affords (tick (s.core s.cur.core) 1) (weight f.ew false) = true →
      ∃ t, exec (.emptyBundle f) s = .next t ∧ t.mem = s.mem ∧ t.mast = s.mast ∧ t.me.regs = { st.regs with pc := st.regs.pc + 2 } ∧
        t.me.bundleNo = st.bundleNo + 1 ∧
        t.me.ckpt = (if f.ckpt then some { before := st.nextId, after := .go } else none) ∧
        t.me.sys = { st.sys with safeCount := if f.safe then 0 else st.sys.safeCount + 1 } ∧
        t.me.groupW = if f.stop then [] else st.groupW) ∧
    (mem.shroud = it :: rest → mem.run = .running → mem.frozen = {} → mem.traps = [] → mem.ckpt = none → turnOf s r = some r →
      (∃ g off, it.bundle.slots = [.br g off]) → it.bundle.flags = { ew := 0, safe := false, ckpt := false, stop := false } →
      mem.regs.holds = {} → mem.regs.fmtPend = none → lineCount mem.withheld ≤ 1024 → it.kd = none → it.after = none →
      (s.core r.core).half = none → affords (tick (s.core r.core) 1) 0 = true →
      ∃ t, exec (.gangMemberExecute r) s = .next t ∧ (t.stream r).regs = { mem.regs with pc := it.next, loops := it.loops } ∧
        (t.stream r).shroud = rest ∧ (t.stream r).bundleNo = mem.bundleNo + 1 ∧ t.cur = s.cur ∧ t.mem = s.mem)

/-! ### Front end and peers -/

/-- R250 to R255, R263, R404: the packets of a picked slot at the outermost depth. Each is served and its queue goes on behind it:
NOP does nothing more; LAUNCH puts a valid launch with the pending ones, unless its context is being terminated, when it is given up (the
model's, log 34); IB enters its buffer; SIGNAL writes 8 bytes; WAITMEM
goes on when its condition holds and waits otherwise, and a poll reads again; GRAPHLOAD loads a valid image; GRAPHRUN sends a
trigger. -/
def Obligations.QueuePacketsAreServed : Prop :=
  ∀ (k type n : Nat) (ws : List W32) (s1 s : State),
    let q := s.slot k
    let e := s.slotQueue q
    let qid := q.qid.getD 0
    let pair (i : Nat) : W64 := ws.getD (i + 1) 0 ++ ws.getD i 0
    let served (i : Instr) (u : State) : Prop := exec i s = .next u
    s.servable k = true → q.picked = true → q.ibs = [] → s.find k = (s1, .packet type n ws) → s1.slot k = q → s1.slotQueue q = e →
    (type = 0 → served (.queueNop k) (s1.advance k (n + 1))) ∧
    (type = 1 → s1.launchBad e.ctx ws false = false → s1.mast.ending.get e.ctx none ≠ none → served (.launch k) (s1.advance k (n + 1))) ∧
    (type = 1 → s1.launchBad e.ctx ws false = false → s1.mast.ending.get e.ctx none = none → (∀ p ∈ s1.fe.pending, p.id < s1.fe.nextLaunch) →
      ∃ (u : State) (p : PendLaunch), served (.launch k) (u.advance k (n + 1)) ∧ u.fe.pending = s1.fe.pending ++ [p] ∧ p.id = s1.fe.nextLaunch ∧
        p.ctx = e.ctx ∧ p.words = ws ∧ p.queue = some qid ∧ u.fe.nextLaunch = s1.fe.nextLaunch + 1 ∧
        u.slot k = q ∧ u.work qid = { s1.work qid with launches := (s1.work qid).launches ++ [s1.fe.nextLaunch] } ∧ u.mem = s1.mem) ∧
    (type = 2 → 0 < (ws.getD 2 0).toNat → (ws.getD 2 0).toNat ≤ 2 ^ 20 → (pair 0).toNat % 4 = 0 →
      served (.ib k) (s1.setSlot k { q with
        ibs := [{ va := (pair 0).toNat, left := (ws.getD 2 0).toNat }], picked := false, lastServed := s1.time })) ∧
    (type = 3 → (pair 0).toNat % 8 = 0 → ∀ (s2 : State) (x : Xlat), s1.boundsOk e.ctx (pair 0).toNat 8 false true = true →
      s1.logged e.ctx = false → s1.translate e.ctx none (pair 0).toNat false true = (s2, .ok x) → 8 ≤ x.left →
      leafEgr x.leaf = 0 → ∃ u : State, served (.signal k) (u.advance k (n + 1)) ∧
        u.memRead (leafKey x.leaf) x.pa 8 = leBytes 8 (pair 2).toNat ∧
        ∀ pa, pa < x.pa ∨ x.pa + 8 ≤ pa → u.memByte (leafKey x.leaf) pa = s1.memByte (leafKey x.leaf) pa) ∧
    (type = 4 → (pair 0).toNat % 8 = 0 → (ws.getD 4 0).toNat ≤ 2 → ∀ (s2 : State) (bs : List Byte),
      s1.hasHalves = false → s1.vaRead e.ctx (pair 0).toNat 8 [] = (s2, bs, .ok) →
      let word : W64 := BitVec.ofNat 64 (leNat bs)
      let cmp := (ws.getD 4 0).toNat
      let holds : Bool := if cmp = 0 then !word.ult (pair 2) else if cmp = 1 then word == pair 2 else word != pair 2
      (holds = true → served (.waitmem k) ((s2.setSlot k { s2.slot k with waitmem := none }).advance k 6)) ∧
      (holds = false → served (.waitmem k) (s2.setSlot k
        { s2.slot k with waitmem := some ((pair 0).toNat, pair 2, cmp), picked := false }))) ∧
    (type = 5 → (ws.getD 3 0).toNat ≤ 255 → (ws.getD 2 0).toNat ≤ 2 ^ 24 → s1.graph (256 * e.ctx + (ws.getD 3 0).toNat) = none →
      ∀ (s2 : State) (img : List Byte) (g : Graph),
        s1.vaRead e.ctx (pair 0).toNat (ws.getD 2 0).toNat q.got = (s2, img, .ok) →
        parseGraph img (s2.schedSpace (256 * e.ctx + (ws.getD 3 0).toNat)) = some g →
        served (.graphload k) ((s2.setGraph (256 * e.ctx + (ws.getD 3 0).toNat) (some g)).advance k (n + 1))) ∧
    (type = 6 → ∃ u : State, served (.graphrun k) (u.advance k (n + 1)) ∧
      u.fe.triggers = s1.fe.triggers ++ [(e.ctx, pair 0, .queue qid s1.fe.nextRun)] ∧ u.fe.nextRun = s1.fe.nextRun + 1 ∧
      u.slot k = q ∧ u.work qid = { s1.work qid with runs := (s1.work qid).runs ++ [s1.fe.nextRun] } ∧ u.mem = s1.mem)

/-- R251, R254, R256, R277, R282, R404: what going on writes (the parse position, and CONS in the descriptor); a poll of a WAITMEM;
the restart of a stopped queue at CONS; a queue is mapped to a free slot with PEND cleared, unmapped at the switch, and leaves
at a packet boundary with event 3, event 1 before it when there is work. -/
def Obligations.QueuesMoveAndMap : Prop :=
  ∀ (k n qid : Nat) (s : State),
    let q := s.slot k
    let e := s.slotQueue q
    let f := s.queue qid
    (q.ibs = [] → ((s.advance k n).slot k).pos = q.pos + BitVec.ofNat 64 n ∧ ((s.advance k n).slot k).picked = false ∧
      (s.advance k n).desc e 24 = (q.pos + BitVec.ofNat 64 n).toNat) ∧
    (∀ (va : Nat) (ref : W64) (s2 : State) (bs : List Byte), q.waitmem = some (va, ref, 1) → q.fault = none → s.hasHalves = false →
      (s.work (q.qid.getD 0)).stopped = false →
      s.fe.stopped = false → q.unmapping = false → s.vaRead e.ctx va 8 [] = (s2, bs, .ok) →
      exec (.waitmemPoll k) s = .next (if BitVec.ofNat 64 (leNat bs) = ref
        then (s2.setSlot k { s2.slot k with waitmem := none }).advance k 6
        else s2.setSlot k { s2.slot k with waitmem := some (va, ref, 1), picked := false })) ∧
    (s.nymenUp = true → (s.work qid).stopped = true →
      let u := s.setWork qid { s.work qid with stopped := false }
      (s.fe.slots = [(k, q)] → q.qid = some qid → exec (.queueRestart qid) s = .next (u.setSlot k
        { q with ibs := [], waitmem := none, got := [], wrote := 0, fault := none, pos := BitVec.ofNat 64 (s.desc e 24) })) ∧
      ((∀ x ∈ s.fe.slots, x.2.qid ≠ some qid) → exec (.queueRestart qid) s = .next u)) ∧
    (s.nymenUp = true → qid < 4096 → k < 64 → f.valid = true → f.slot = none → q.qid = none → ∃ t, exec (.queueMap qid k) s = .next t ∧
      t.queue qid = { f with slot := some k } ∧ t.desc f 32 = 0 ∧
      t.slot k = { qid := some qid, pos := BitVec.ofNat 64 (s.desc f 24), lastServed := s.time }) ∧
    (s.nymenUp = true → f.slot = some k → exec (.queueUnmap qid) s = .next ((s.setQueue qid { f with slot := none }).setSlot k
      { q with unmapping := true, picked := q.picked && !q.ibs.isEmpty })) ∧
    (q.qid = some qid → q.unmapping = true → q.ibs = [] → q.fault = none → ∃ (t : State) (m : Mast) (ev : EventRec),
      exec (.queueUnmapComplete k) s = .next t ∧ t.slot k = {} ∧ t.desc f 24 = q.pos.toNat ∧
      t.mast = m.post ev ∧ ev.type = 3 ∧ ev.arg0 = BitVec.ofNat 64 qid ∧ ev.arg1 = BitVec.ofNat 64 k ∧
      if t.desc f 32 % 2 = 1 ∨ q.pos.toNat < t.desc f 16 then ∃ wake, m = s.mast.post wake ∧ wake.type = 1 else m = s.mast)

/-- R62, R194, R257 to R260, R297, R310: a pending launch of one member, without images to load, starts at a free position, but none in a context
that is being terminated: the launch presets its registers, clears the bank that another context held, and its stream issues from ENTRY; a launch whose members have
halted and retired everything ends, its stream is idle, and event 4 is posted. -/
def Obligations.LaunchesStartAndEnd : Prop :=
  (∀ (p : PendLaunch) (s : State), s.fe.pending = [p] → s.mast.ending.get p.ctx none ≠ none → exec (.launchStart p.id) s = .next s) ∧
  (∀ (p : PendLaunch) (s : State), s.fe.pending = [p] → s.mast.ending.get p.ctx none = none → p.fault = none → s.fe.stopped = false → p.pos = none → p.avoid = [] →
    p.snap = none → p.dva = none → p.text = [] → p.data = [] →
    let w0 := p.words.getD 0 0
    let lead := w0.toNat % 2 ^ 8
    let strm : Strm := if w0.getLsbD 15 then .miz else .main
    let r : SRef := { core := lead, strm := strm }
    let st := s.stream r
    let entry : W48 := (p.words.getD 1 0 &&& 0x3FFFF).setWidth 48
    lead < numCores → w0.toNat / 2 ^ 8 % 8 = 1 → w0.getLsbD 17 = false → w0.getLsbD 18 = false →
    (s.partOf p.ctx).cores.contains lead = true → s.freeAt p.id p.words lead = true →
    ∃ t regs, exec (.launchStart p.id) s = .next t ∧ t.fe.pending = [] ∧ (t.stream r).regs = regs ∧ (t.stream r).dup = regs ∧
      (t.stream r).run = .running ∧ (t.stream r).bank = some p.ctx ∧
      (t.stream r).launch = some { id := p.id, ctx := p.ctx, lead := lead, gpos := 0, gsize := 1, skew := (w0 >>> 11).setWidth 4
                                   det := w0.getLsbD 16, vcl := (w0 >>> 22).setWidth 10, zt := w0.toNat / 2 ^ 19 % 8
                                   tlen := (p.words.getD 4 0).toNat % 2 ^ 13, group := s.fe.groups.get p.id 0, node := p.node } ∧
      regs.pc = entry ∧ regs.loops = [] ∧ regs.holds = {} ∧ regs.t = [] ∧ regs.fmtr = 0x600 ∧ regs.slack = 0xFFFF ∧ regs.dom = 4 ∧
      regs.handler = none ∧ regs.phase = {} ∧ regs.xparam = [] ∧ regs.packRes = 0 ∧ regs.sumRes = 0 ∧
      (∀ n, (regs.tags.get n {}).valid = false ∧ (regs.tags.get n {}).tag = (st.regs.tags.get n {}).tag) ∧
      (t.stream r).sys.oppReq = 5 ∧ (t.stream r).sys.safeCount = 0 ∧ (t.stream r).sys.blogm = [] ∧
      (∀ f n, regs.get f n = if st.bank = some p.ctx then st.regs.get f n else 0) ∧ t.mem = s.mem) ∧
  ∀ (r : SRef) (l : LaunchInfo) (s : State),
    let st := s.stream r
    s.launchStreams l.id = [r] → s.launchInfo l.id = some l → l.ended = none → l.gsize = 1 → l.node = none → st.run = .halted →
    st.mq = [] → st.pq = [] → st.xq = [] → st.dheld = [] → st.dq = [] → st.ckpt = none →
    ∃ (t : State) (m : Mast) (ev : EventRec), exec (.launchComplete l.id) s = .next t ∧ (t.stream r).launch = none ∧
      (t.stream r).run = .idle ∧ (∀ q, q ≠ r → t.stream q = s.stream q) ∧ t.mem = s.mem ∧
      t.mast = m.post ev ∧ ev.type = 4 ∧ ev.arg0 = BitVec.ofNat 64 l.ctx

/-- R263 to R265: a trigger without patches of a graph of EMPTY nodes that is not running starts a run: each node without
predecessors is at work, the others count theirs; a node that completes counts its successors down, and those at 0 start. A
trigger that meets a run is held, and starts when none is in progress. R265: the trigger taken is one that no other goes before. R266: the
GTRIG that made a trigger write completes with status 20 for a GID that is not loaded, 21 when a trigger is held already, else 0. -/
def Obligations.GraphsRun : Prop :=
  (∀ (ctx i : Nat) (v d : W64) (r : SRef) (o : Op) (rest : List Op) (s : State),
    let k := 256 * ctx + v.toNat / 2 ^ 56
    let u : State := { s with fe := { s.fe with triggers := s.fe.triggers.eraseIdx i } }
    s.fe.stopped = false → s.fe.triggers[i]? = some (ctx, v, .stream r o.id) → s.trigFirst i (.stream r o.id) = true → r.core < numCores →
    (s.stream r).dq = o :: rest → (∀ y ∈ rest, o.id < y.id) → o.body = .gtrig d → o.sent = true →
    (s.graph k = none → exec (.triggerWrite i) s = .next (u.updStream r (retired o rest 20))) ∧
    (∀ g, s.graph k = some g → v.toNat / 2 ^ 40 % 2 ^ 8 = 0 → g.run ≠ none →
      (g.held ≠ none → exec (.triggerWrite i) s = .next (u.updStream r (retired o rest 21))) ∧
      (g.held = none → exec (.triggerWrite i) s = .next ((u.setGraph k (some { g with
        held := some { value := v, src := .stream r o.id, fresh := false } })).updStream r (retired o rest 0))))) ∧
  ∀ (ctx j i run : Nat) (v : W64) (g : Graph) (s : State),
    let k := 256 * ctx + v.toNat / 2 ^ 56
    let first (n : GNode) : NodeState := if n.npred = 0 then .busy [] 0 none 0 else .waiting n.npred
    let started (t : State) : Prop :=
      t.graph k = some { g with held := none, run := some { id := run, nodes := g.nodes.map first } }
    s.fe.stopped = false → s.graph k = some g → (∀ n ∈ g.nodes, n.kind = .empty) → (∃ n ∈ g.nodes, n.npred = 0) → v.toNat % 2 ^ 3 = 0 →
    v.toNat / 2 ^ 40 % 2 ^ 16 = 0 → g.fault = none → s.trigFirst i (.queue j run) = true →
    (s.fe.triggers[i]? = some (ctx, v, .queue j run) → g.run = none → g.held = none →
      ∃ t, exec (.triggerWrite i) s = .next t ∧ started t ∧ t.fe.triggers = s.fe.triggers.eraseIdx i ∧ t.mem = s.mem) ∧
    (s.fe.triggers[i]? = some (ctx, v, .queue j run) → g.run ≠ none → g.held = none →
      ∃ t, exec (.triggerWrite i) s = .next t ∧
        t.graph k = some { g with held := some { value := v, src := .queue j run, fresh := false } }) ∧
    (g.run = none → g.held = some { value := v, src := .queue j run, fresh := false } →
      ∃ t, exec (.graphRunStart ctx (v.toNat / 2 ^ 56)) s = .next t ∧ started t ∧ t.mem = s.mem) ∧
    (∀ (u : GRun) (n : GNode), g.run = some u → u.failed = none → u.nodes[i]? = some (.busy [] 0 none 0) → g.nodes[i]? = some n →
      u.nodes.length = g.nodes.length → i ∉ n.succ → (∃ x, x ≠ i ∧ x < u.nodes.length ∧ u.nodes[x]? ≠ some .complete) →
      ∃ (t : State) (w : GRun), exec (.graphNodeComplete ctx (v.toNat / 2 ^ 56) i) s = .next t ∧ t.graph k = some { g with run := some w } ∧
        w.failed = none ∧ w.nodes.length = u.nodes.length ∧ w.nodes[i]? = some .complete ∧
        ∀ x, x ≠ i → w.nodes[x]? = match u.nodes[x]? with
          | some (.waiting c) => some (if x ∈ n.succ ∧ c ≤ n.succ.count x then .busy [] 0 none 0 else .waiting (c - n.succ.count x))
          | y => y)

/-- R252, R270 to R272, R298: without a policy a pick takes, of the slots that have work, the highest RANK, then the greatest AGE, then
the lowest slot; a policy ARGMIN h0, f; RET h0 (or ARGMAX) picks the least (or greatest) field f, the lowest slot on ties; an enqueue runs the policy for its state words alone; a time slice picks anew when the policy answers nonzero;
neither runs it while the Mast is halted; a load takes an accepted program and clears its state words. -/
def Obligations.PoliciesChoose : Prop :=
  ∀ (part k qid : Nat) (words : List W32) (s : State),
    let l := s.cands part
    let p := s.part part
    let rank (c : Cand) : Nat := c.fields.getD 0 0
    let age (c : Cand) : Nat := c.fields.getD 2 0
    (s.fe.stopped = false → p.policy = [] → l.length ≤ 64 → (∃ c ∈ l, c.runnable = true) →
      ∃ (t : State) (i : Nat) (c : Cand), exec (.policyPick part) s = .next t ∧ l[i]? = some c ∧ c.runnable = true ∧
        (∀ d ∈ l, d.runnable = true → rank d < rank c ∨ rank d = rank c ∧ age d ≤ age c) ∧
        (∀ d ∈ l.take i, d.runnable = true → ¬(rank d = rank c ∧ age d = age c)) ∧
        (t.slot c.slot).picked = true ∧ (t.part part).current = some c.slot ∧ (t.part part).since = s.time) ∧
    (s.nymenUp = false → exec (.policyEnqueue part qid) s = .next s ∧ exec (.policyTimeSlice part) s = .next s) ∧
    (∀ q, s.nymenUp = true → s.fe.slots = [(k, q)] → q.qid = some qid → q.ready = true → (s.ctx (s.slotQueue q).ctx).partition = part →
      (p.policy = [] → exec (.policyEnqueue part qid) s = .next (s.setSlot k { q with ready := false })) ∧
      (p.policy ≠ [] → ∃ words', exec (.policyEnqueue part qid) s =
        .next ((s.setSlot k { q with ready := false }).setPart part { p with policyState := words' }))) ∧
    (∀ (f : Nat) (least : Bool), s.fe.stopped = false → f ≤ 5 →
      l.length ≤ 64 → p.policy = [BitVec.ofNat 32 ((if least then 0x14 else 0x15) * 2 ^ 26 + f), 0xFC000000] → (∃ c ∈ l, c.runnable = true) →
      let key (c : Cand) : Nat := c.fields.getD f 0
      let worse (c d : Cand) : Prop := if least then key c < key d else key d < key c
      ∃ (t : State) (i : Nat) (c : Cand), exec (.policyPick part) s = .next t ∧ l[i]? = some c ∧ c.runnable = true ∧
        (∀ d ∈ l, d.runnable = true → worse c d ∨ key c = key d) ∧ (∀ d ∈ l.take i, d.runnable = true → worse c d) ∧
        (t.slot c.slot).picked = true ∧ (t.part part).current = some c.slot ∧ (t.part part).since = s.time ∧
        (t.part part).policyState = p.policyState) ∧
    (∀ (u : State) (v : W64), s.nymenUp = true → p.policy ≠ [] → s.runPolicy part 2 = (u, v) →
      exec (.policyTimeSlice part) s = .next (if v ≠ 0 ∧ s.fe.stopped = false then u.pick part else u)) ∧
    (polOk words = true → s.nymenUp = true → exec (.policyLoad part words) s = .next (s.setPart part { p with policy := words, policyState := [] })) ∧
    (polOk words = false → exec (.policyLoad part words) s = .next s)

/-- R254, R263, R277, R279 to R281, R284: a notify record of 32 bytes, from a peer's write to a doorbell page or a message: one with
a valid queue, a matching tag and a greater sequence number raises PROD and wakes its mapped slot, or sets PEND and posts event
1; a bad tag, an entry that is not valid or an old number is counted. A write to a TRIGVA is a trigger; either is acknowledged; a record whose
peer does not answer retires with status 22. That the tag is HMAC-SHA-256 as the model writes it is log 23. -/
def Obligations.NotifyRecordsAreAccepted : Prop :=
  ∀ (stn link k : Nat) (va : W64) (bytes : List Byte) (s : State),
    let f (off n : Nat) : Nat := leNat ((bytes.drop off).take n)
    let e := s.queue (f 0 2)
    let dbva := (s.peers.stations.get stn {}).dbva
    let tagged : Prop := (hmacSha256 e.key (bytes.take 24)).take 8 = (bytes.drop 24).take 8
    let inc (c : W32) : W32 := if c = BitVec.allOnes 32 then c else c + 1
    let acked (u : State) : State := { u with peers := { u.peers with
      nextReq := u.peers.nextReq + 1, outbox := u.peers.outbox ++ [.answer stn link u.peers.nextReq []] } }
    let arrives (p : State → Prop) : Prop :=
      (∃ t, exec (.uetNotifyMessage bytes) s = .next t ∧ p t) ∧
      (va = dbva → dbva ≠ BitVec.allOnes 64 → va.toNat % 32 = 0 →
        ∃ t, exec (.ualinkDoorbellWrite ⟨stn, link⟩ va bytes) s = .next (acked t) ∧ p t)
    (bytes.length = 32 → f 0 2 < 4096 → e.valid = true →
      (tagged → e.lastSeq.toNat < f 16 8 → arrives fun t =>
        (t.queue (f 0 2)) = { e with lastSeq := BitVec.ofNat 64 (f 16 8) } ∧ t.desc e 16 = max (s.desc e 16) (f 8 8) ∧
        (e.slot = some k → t.slot k = { s.slot k with ready := true } ∧ t.mast = s.mast) ∧
        (e.slot = none → t.desc e 32 = 1 ∧ ∃ ev, t.mast = s.mast.post ev ∧ ev.type = 1 ∧ ev.arg0 = BitVec.ofNat 64 (f 0 2))) ∧
      (tagged → f 16 8 ≤ e.lastSeq.toNat → arrives fun t => t = s.setQueue (f 0 2) { e with stale := inc e.stale }) ∧
      (¬tagged → arrives fun t => t = s.setQueue (f 0 2) { e with badTag := inc e.badTag })) ∧
    (bytes.length = 32 → f 0 2 < 4096 → e.valid = false →
      arrives fun t => t = s.setQueue (f 0 2) { e with badTag := inc e.badTag }) ∧
    (∀ ctx, s.trigCtx stn va.toNat = some ctx → bytes.length = 8 → va.toNat % 8 = 0 →
      exec (.ualinkTriggerWrite ⟨stn, link⟩ va bytes) s = .next (acked { s with fe := { s.fe with
        triggers := s.fe.triggers ++ [(ctx, BitVec.ofNat 64 (leNat bytes), .peer)] } })) ∧
    (∀ (r : SRef) (o : Op) (rest : List Op) (d : W64) (entry : Nat), Oldest s r o rest → Clean s r o → o.body = .notify d →
      d.getLsbD 40 = false → s.protected (s.stream r).owner = false → s.notifyWay r d = .peer entry →
      exec (.notifyAckTimeout r o.id) s = .next (({ s with peers := { s.peers with
        outbox := s.peers.outbox ++ [s.notifyMsg entry o.data] } }).updStream r (retired o rest 22)))

/-- R190, R191, R212 to R216, R284: a peer's requests on one local page, with no other request of a peer in the package: a write
stores its bytes, a read waits and then answers with the bytes, an atomic answers with the old value and stores the new one; a
released write leaves the egress buffer. That MAX and MIN take the values as signed is the model's (log 27). -/
def Obligations.PeerRequestsAct : Prop :=
  ∀ (stn link ctx : Nat) (va : W64) (bytes : List Byte) (x : Xlat) (s1 s : State),
    let key := leafKey x.leaf
    let req (act : PeerAct) : PeerReq := { n := s.peers.nextReq, stn := stn, link := link, ctx := ctx, va := va, act := act }
    let answered (q : PeerReq) (bs : List Byte) (t : State) : Prop := t.peers.reqs = [] ∧
      t.peers.outbox = s.peers.outbox ++ [.answer q.stn q.link q.n bs]
    let rest (n : Nat) (t : State) : Prop := ∀ pa, pa < x.pa ∨ x.pa + n ≤ pa → t.memByte key pa = s.memByte key pa
    inDoorbell (s.peers.stations.get stn {}) va.toNat = false → s.trigCtx stn va.toNat = none → s.stationHas stn ctx = true →
    leafEgr x.leaf = 0 → s.recov = [] → s.hasMarks = false → s.hasHalves = false →
    (s.peers.reqs = [] → 0 < bytes.length → s.boundsOk ctx va.toNat bytes.length false true = true →
      s.translate ctx none va.toNat false true = (s1, .ok x) → bytes.length ≤ x.left →
      ∃ t, exec (.peerWrite ⟨stn, link⟩ ctx va bytes) s = .next t ∧ t.memRead key x.pa bytes.length = bytes ∧ rest bytes.length t ∧
        answered (req (.write bytes)) [] t) ∧
    (∀ n, exec (.peerRead ⟨stn, link⟩ ctx va n) s = .next { s with peers := { s.peers with
      reqs := s.peers.reqs ++ [req (.read n)], nextReq := s.peers.nextReq + 1 } }) ∧
    (∀ (q : PeerReq) (n : Nat), s.peers.reqs = [q] → q.ctx = ctx → q.va = va → q.act = .read n → q.fault = none → q.moved = 0 → q.got = [] → 0 < n →
      s.boundsOk ctx va.toNat n true false = true → s.translate ctx none va.toNat true false = (s1, .ok x) → n ≤ x.left →
      ∃ t, exec (.peerReadAnswer q.n) s = .next t ∧ t.mem = s.mem ∧ answered q (s.memRead key x.pa n) t) ∧
    (∀ (wide : Bool) (op : PeerOp) (opnd cmp : W64), s.peers.reqs = [] →
      let w := if wide then 8 else 4
      let old : Nat := leNat (s.memRead key x.pa w)
      let m : Nat := 2 ^ (8 * w)
      let y : Nat := opnd.toNat % m
      let signed (z : Nat) : Int := if 2 * z < m then z else (z : Int) - m
      let new : Nat := match op with
        | .add => (old + y) % m
        | .and => old &&& y
        | .or => old ||| y
        | .xor => old ^^^ y
        | .max => if signed old < signed y then y else old
        | .min => if signed y < signed old then y else old
        | .swap => y
        | .cas => if old = cmp.toNat % m then y else old
      va.toNat % w = 0 → s.boundsOk ctx va.toNat w true true = true → s.translate ctx none va.toNat true true = (s1, .ok x) →
      ∃ t, exec (.peerAtomic ⟨stn, link⟩ ctx va wide op opnd cmp) s = .next t ∧ t.memRead key x.pa w = leBytes w new ∧ rest w t ∧
        answered (req (.atomic wide op opnd cmp)) (s.memRead key x.pa w) t) ∧
    (∀ (e : EgItem) (l : List EgItem), s.egress = e :: l → e.ctx = ctx → e.released = true →
      exec (.egressSend ctx) s = .next { s with egress := l, peers := { s.peers with outbox := s.peers.outbox ++ [e.msg] } })

/-! ### The Mast, debug, power and links -/

/-- R23, R273 to R275, R278: the Mast takes and acknowledges events, and boots. An idle Mast core takes the oldest event whose key no other
core handles; EVACK makes it idle. At cold reset every field takes its reset value, the fuses apart. An image that passes every
check of R275 is measured and the boot goes on, or the agent of its partition starts; the ROM goes on waiting after one that fails, any other stage
stops; none comes in over a link held in reset. Fused minimums only rise, and only by the monitor; GET_MEASUREMENTS reports the log. That the fuses survive a reset and what an image's checks
are in detail (log 22), SHA-256 as written (log 23), the signature check (log 10), the status word of a failed stage (log 12) and that every
image passes through the mailbox window (log 50) are the model's. -/
def Obligations.EventsAndBoot : Prop :=
  ∀ (mc part : Nat) (img : FwImage) (who : MastActor) (kind : Nat) (svn : W32) (s : State),
    let m := s.mast
    let b := { s.boot with mailbox := imgBytes img }
    let sound : Prop := img.magic = 0x5A170C3D ∧ img.len.toNat = img.payload.length ∧
      0 < img.payload.length ∧ img.payload.length ≤ 0x1000000 ∧ img.load ≤ img.entry ∧
      img.entry.toNat < img.load.toNat + img.payload.length ∧ img.pubkey.length = 32 ∧ img.sig.length = 7856 ∧ img.hash.length = 32 ∧
      sha256 img.payload = img.hash
    let signed := Config.slhDsaVerify img.pubkey (imgHead img) img.sig
    (∀ (l1 l2 : List EventRec) (e : EventRec), s.nymenUp = true → mc < 12 → m.handling.get mc none = none → m.deferred = [] →
      m.events = l1 ++ e :: l2 →
      (∀ x ∈ l1, ∃ p ∈ m.handling, ∃ h, p.2 = some h ∧ h.okey = x.okey) →
      (∀ p ∈ m.handling, ∀ h, p.2 = some h → h.okey ≠ e.okey) →
      exec (.evtake mc) s = .next { s with mast := { m with events := l1 ++ l2, handling := m.handling.set mc (some e) none } }) ∧
    (s.nymenUp = true → exec (.evack mc) s = .next { s with mast := { m with handling := m.handling.set mc none none } }) ∧
    (exec .coldReset s = .next { State.reset with agenda := s.agenda, free := s.free
                                                  boot := { keyHash := b.keyHash, revoked := b.revoked, minSvn := b.minSvn } }) ∧
    (s.links.pcieHeld = true → exec (.bootImage ⟨img, part⟩) s = .next s) ∧
    (s.links.pcieHeld = false → b.stage < 3 → img.kind = [1, 4, 2].getD b.stage 0 → sound →
      img.keyIx.toNat < 4 → b.keyHash[img.keyIx.toNat]? = some (sha256 img.pubkey) → b.revoked.getD img.keyIx.toNat false = false →
      b.minSvn.get img.kind.toNat 0 ≤ img.svn →
      exec (.bootImage ⟨img, part⟩) s = .next (
        if signed then { s with
          memctl := if b.stage = 1 then { s.memctl with trained := true } else s.memctl
          boot := { b with
            measured := b.measured ++ [sha256 (imgBytes img)], stage := b.stage + 1
            nymenHash := if img.kind = 2 then img.hash else b.nymenHash
            nymenImage := if img.kind = 2 then img.payload else b.nymenImage } }
        else if b.stage = 0 then { s with boot := b }
        else { s with free := s.free + 1, boot := { b with status := Config.freeWord s.free, stage := 4 } })) ∧
    (s.links.pcieHeld = false → b.stage = 3 → s.nymenUp = true → (s.part part).active = true → img.kind = 3 → sound →
      (∀ k : OwnerKey, b.owners.get img.keyIx.toNat {} = k → img.keyIx.toNat < 256 → k.valid = true → k.revoked = false → k.key = img.pubkey →
        k.minSvn ≤ img.svn → exec (.bootImage ⟨img, part⟩) s = .next (
          if signed then { s with boot := { b with measured := b.measured ++ [sha256 (imgBytes img)] } }.setPart part { s.part part with agent := true }
          else { s with free := s.free + 1, boot := { b with status := Config.freeWord s.free, stage := 5 } }))) ∧
    (s.links.pcieHeld = false → b.stage = 0 → (imgBytes img).length ≤ 17825792 →
      (img.kind ≠ 1 ∨ img.magic ≠ 0x5A170C3D ∨ sha256 img.payload ≠ img.hash ∨ b.keyHash = []) →
      exec (.bootImage ⟨img, part⟩) s = .next { s with boot := b }) ∧
    (1 ≤ b.stage → (kind = 1 ∨ kind = 2 ∨ kind = 4) → exec (.fuseMinimumRaise ⟨who, kind⟩ svn) s =
      .next (if who = .monitor ∧ b.minSvn.get kind 0 < svn then
        { s with boot := { s.boot with minSvn := s.boot.minSvn.set kind svn 0 } } else s)) ∧
    (exec .getMeasurements s = .next (if s.links.pcieHeld then s else { s with links := { s.links with doe := b.measured } }))

/-- R277, R297, R298: a crash of Nymen freezes every stream and stops the front end; a context without KWARM ends with REASON 0x80.
Within 1 s Nymen starts warm from an image that still has its hash, adopts the entries whose CRC matches, and thaws; later, the
frozen contexts end with REASON 0x80. That the hash is SHA-256 as the model writes it is log 23. -/
def Obligations.NymenRestartsWarm : Prop :=
  ∀ (ctx : Nat) (e : CtxEntry) (s : State),
    let ends (i : Instr) : Prop := ∃ (t : State) (m : Mast) (ev : EventRec), exec i s = .next t ∧ (t.ctx ctx).state = 4 ∧ t.mast = m.post ev ∧
      ev.type = 10 ∧ ev.arg0 = BitVec.ofNat 64 ctx ∧ (ev.arg1 = noticeWord ctx 0x80 ∨ ev.arg1 = noticeWord ctx 0x80 ||| 0x100)
    (s.nymenUp = true → (∀ p ∈ s.mast.registry, (p.2.state = 1 ∨ p.2.state = 2 ∨ p.2.state = 3) → flag p.2.contain 0 = true) →
      ∃ t, exec .nymenCrash s = .next t ∧ t.crash.since = some s.time ∧ t.fe.stopped = true ∧ t.mast = s.mast ∧ t.mem = s.mem ∧
        (∀ p ∈ s.streams, t.stream p.1 = { s.stream p.1 with frozen := { (s.stream p.1).frozen with nymen := true } }) ∧
        ∀ r, r ∉ s.streams.map Prod.fst → t.stream r = s.stream r) ∧
    (s.nymenUp = true → s.mast.registry = [(ctx, e)] → e.state = 1 → flag e.contain 0 = false → s.streams = [] → ends .nymenCrash) ∧
    (∀ t0, s.crash.since = some t0 → s.time ≤ t0 + 1000000 → sha256 s.boot.nymenImage = s.boot.nymenHash →
      (∀ p ∈ s.mast.registry, (p.2.state = 1 ∨ p.2.state = 2 ∨ p.2.state = 3) → p.2.crc = crc32c 0 (ctxBytes p.1 p.2)) →
      ∃ t, exec .nymenThaw s = .next t ∧ t.crash.since = none ∧ t.fe = { s.fe with stopped := false } ∧ t.mast = s.mast ∧ t.mem = s.mem ∧
        (∀ p ∈ s.streams, t.stream p.1 = { s.stream p.1 with frozen := { (s.stream p.1).frozen with nymen := false } }) ∧
        ∀ r, r ∉ s.streams.map Prod.fst → t.stream r = s.stream r) ∧
    (∀ t0, s.crash.since = some t0 → t0 + 1000000 < s.time → s.mast.registry = [(ctx, e)] → e.state = 1 → s.streams = [] →
      ends .warmRestartTimeout)

/-- R5, R21 to R23, R25, R269, R273, R295, R302, R304, R313: Nymen's tables. A partition is created from whole cores that no other holds, each
with a full bucket (R308: a core of a cluster that was gated or idle counts as quiet for long); it is resized, to give up cores that run no
launch or to take free ones, and, once its cores are idle, destroyed. A creation, a destruction and a write of a bandwidth share have the
bandwidth shared out anew (R316); a resize leaves the shares, into which no core enters. The monitor alone loads a key slot; a write to a table
or to memory leaves what was written, Reserved bits and LOST of CONTAIN apart. A write that its mode may not make has no effect; an agent's
write of a registry entry of its partition leaves the fields that Nymen alone writes. The model's are: that the shares are made anew at those
three, in tenths of a GB/s, rounded down (log 49); that Nymen has the monitor load a key slot, that an MSI-X vector is signalled by software,
that a UALink form takes its links down, and that no write reaches memory before its controllers are trained (log 50). -/
def Obligations.NymenWritesItsTables : Prop :=
  ∀ (part ix ctx pa key slot : Nat) (who : MastActor) (ranges : List (Nat × Nat)) (llr cbfc : Bool) (uf : UaForm) (cores : List Nat) (bs : List Byte) (w : W64) (e : CtxEntry) (q : QEntry) (d : Station)
    (ok : OwnerKey) (rk : BitVec 3) (s : State),
    let p := s.part part
    let free : Prop := (∀ c ∈ cores, c < numCores) ∧ ∀ o ∈ s.mast.parts, o.1 ≠ part → o.2.active = true → ∀ c ∈ o.2.cores, c ∉ cores
    let write (m : MastWrite) (P : State → Prop) : Prop := ∃ t, exec (.mastRegisterWrite ⟨.nymen, m⟩) s = .next t ∧ P t
    let old := s.ctx ctx
    let memsh (p : Partition) : Nat := p.ppower.toNat / 2 ^ 40 % 2 ^ 8
    let dull (c : Nat) : Bool := s.gatedCluster (c / 36) (clusterOf c) || (s.arbiter.lend (lendKey (c / 36) (clusterOf c))).idle
    let ungated (c : Nat) : Core := { s.core c with
      power := { (s.core c).power with bucket := (s.core c).power.pgrant.toNat / 2 ^ 24 % 2 ^ 24 }
      quiet := if dull c then 1024 else (s.core c).quiet }
    let shared (t : State) : Prop :=
      let live := t.mast.parts.filter fun o => o.2.active
      t.memctl.left = s.memctl.left ∧ ((live.map Prod.fst).Nodup → ∀ o ∈ live, t.memctl.shares.get o.1 0 =
        ((List.range 8).map fun k => s.memctl.left.get k 26624).sum * memsh o.2 / max 256 (live.map fun o => memsh o.2).sum)
    (∀ m, s.mastMay who m = false → exec (.mastRegisterWrite ⟨who, m⟩) s = .next s) ∧
    (who ≠ .monitor → exec (.keySlotLoad ⟨who, slot⟩) s = .next s) ∧
    (1 ≤ s.boot.stage → slot < 1024 → ∃ t, exec (.keySlotLoad ⟨.monitor, slot⟩) s = .next t ∧
      t.keys.now slot = (slot, (s.keys.now slot).2 + 1) ∧
      (∀ n, n ≠ slot → t.keys.now n = s.keys.now n) ∧ t.mem = s.mem ∧ t.keys.lines = s.keys.lines) ∧
    (s.mastRuns (.agent part) = true → ctx < 65536 → (ctx, old) ∈ s.mast.registry → old.partition = part → ∃ t, exec (.mastRegisterWrite ⟨.agent part, .registry ctx e⟩) s = .next t ∧
      t.ctx ctx = { e with partition := part, ptroot := old.ptroot, boundsPa := old.boundsPa, tdeleg := old.tdeleg, rank := old.rank
                           contain := (t.ctx ctx).contain } ∧
      (∀ n : Nat, n < 64 → (t.ctx ctx).contain.getLsbD n = (decide (n < 3 ∨ 16 ≤ n ∧ n < 24) && old.contain.getLsbD n)) ∧
      ∀ n, n ≠ ctx → t.ctx n = s.ctx n) ∧
    (s.nymenUp = true →
    (p.active = false → part < 256 → (s.mast.parts.filter fun o => o.2.active).length < 40 → free →
      ∃ t, exec (.partitionCreate part cores) s = .next t ∧ (t.part part).active = true ∧ (∀ c, c ∈ (t.part part).cores ↔ c ∈ cores) ∧
        (t.part part).cores.Pairwise (· < ·) ∧ (∀ n, n ≠ part → t.part n = s.part n) ∧ t.mem = s.mem ∧ shared t ∧
        (∀ c ∈ cores, t.core c = ungated c) ∧ ∀ c, c ∉ cores → t.core c = s.core c) ∧
    (p.active = true → free → (∀ c ∈ p.cores, c ∈ cores ∨ (s.core c).main.launch = none ∧ (s.core c).miz.launch = none) →
      ∃ t, exec (.partitionResize part cores) s = .next t ∧ (t.part part).active = true ∧ (∀ c, c ∈ (t.part part).cores ↔ c ∈ cores) ∧
        (∀ n, n ≠ part → t.part n = s.part n) ∧ t.mem = s.mem ∧ t.memctl = s.memctl ∧
        ∀ c, t.core c = if c ∈ cores ∧ c ∉ p.cores then ungated c else s.core c) ∧
    ((∀ c ∈ p.cores, (s.core c).main.launch = none ∧ (s.core c).miz.launch = none) →
      ∃ t, exec (.partitionDestroy part) s = .next t ∧ (t.part part).active = false ∧ (t.part part).cores = [] ∧
        (∀ n, n ≠ part → t.part n = s.part n) ∧ t.cores = s.cores ∧ t.mem = s.mem ∧ shared t ∧
        ∀ core p tid, core < numCores → tid < 65536 → t.treeNode core (treeNo p tid) = if p = part then {} else s.treeNode core (treeNo p tid)) ∧
    (ctx < 65536 → write (.registry ctx e) fun t => t.ctx ctx = { e with contain := (t.ctx ctx).contain } ∧
      (∀ n : Nat, n < 64 → (t.ctx ctx).contain.getLsbD n =
        if n = 2 then (s.ctx ctx).contain.getLsbD 2 else (decide (n < 2 ∨ 16 ≤ n ∧ n < 24) && e.contain.getLsbD n)) ∧
      ∀ n, n ≠ ctx → t.ctx n = s.ctx n) ∧
    (pa + bs.length ≤ memSize → key < 1024 → s.memctl.trained = true → write (.memory pa key bs) fun t => t.memRead key pa bs.length = bs ∧
      (∀ a, a < pa ∨ pa + bs.length ≤ a → t.memByte key a = s.memByte key a) ∧ t.cores = s.cores) ∧
    (ix < 4096 → write (.queue ix q) fun t => t.queue ix = { q with slot := (s.queue ix).slot } ∧ t.mem = s.mem) ∧
    (ix < 256 → bs.length = 32 → write (.peer ix bs) fun t => t.peers.table.get ix [] = bs ∧ t.mem = s.mem) ∧
    (write (.ppower part w) fun t => shared t ∧ ∀ n : Nat, (t.part part).ppower.getLsbD n = (decide (n < 12 ∨ 24 ≤ n ∧ n < 48) && w.getLsbD n)) ∧
    (write (.launchRec part w) fun t => ∀ n : Nat, (t.part part).launchRec.getLsbD n = (decide (n < 35) && w.getLsbD n)) ∧
    (write (.weight part w) fun t => (t.part part).weight = w) ∧
    (ix < 4 → write (.station ix d) fun t => t.peers.stations.get ix {} = d) ∧
    (ix < 256 → write (.ownerKey ix ok) fun t => t.boot.owners.get ix {} = ok) ∧
    (write (.rank ctx rk) fun t => (t.ctx ctx).rank = rk ∧ (t.ctx ctx).ptroot = (s.ctx ctx).ptroot) ∧
    (write (.fabricGroup ix key) fun t => t.fe.groups.get ix 0 = key) ∧
    (slot < 1024 → write (.keyOwner slot part) fun t => t.keys.owner.get slot none = some part) ∧
    (1024 ≤ slot → write (.keyOwner slot part) fun t => t = s) ∧ (pa + bs.length ≤ memSize → 1024 ≤ key → write (.memory pa key bs) fun t => t = s) ∧
    (write (.gstage part ranges) fun t => t.part part = { p with mem := ranges }) ∧
    (ix < 8 → write (.ethLink ix llr cbfc) fun t => t.links.llr.get ix false = llr ∧ t.links.cbfc.get ix false = cbfc ∧ t.links.eth = s.links.eth) ∧
    (ix < 4 → write (.uaForm ix uf) fun t => t.links.forms.get ix .x4 = uf ∧ ∀ k, t.links.ua.get k .down = if k / 4 = ix then .down else s.links.ua.get k .down) ∧
    (ix < 32 → s.links.pcieHeld = false → write (.msix ix) fun t => t = { s with links := { s.links with msix := s.links.msix ++ [ix] } }))

/-- R23, R292, R293, R303: the debug window. An authenticated session that the agent approves unlocks a partition; a stop is asked of a
gang of an unlocked partition alone; the scratchpad and the context image of a stream that a trap or a landed debug stop holds are read and its state is written;
a link held in reset, a running stream or a locked partition shows nothing; the end of the session locks the partition. That it lets go of the streams is the
model's (log 39). -/
def Obligations.DebugWindow : Prop :=
  ∀ (r : SRef) (l : LaunchInfo) (auth ok : Bool) (addr n k : Nat) (v : W48) (x : W64) (a : DebugAccess) (s : State), r.core < numCores →
    let st := s.stream r
    let part := (s.ctx l.ctx).partition
    let out (bs : List Byte) : State := { s with debugOut := s.debugOut ++ [bs] }
    let still : Prop := st.mq = [] ∧ st.pq = [] ∧ st.xq = [] ∧ st.dheld = [] ∧ st.ckpt = none ∧ ∀ o ∈ st.dq, staysSaved o = true
    let shown : Prop := (s.part part).unlocked = true ∧ (st.run = .stopped ∨ st.frozen.debug = true ∧ still)
    st.launch = some l → s.gang r = [r] →
    (s.links.pcieHeld = true → exec (.debugUnlock part auth ok) s = .next s ∧ exec (.debugStop r) s = .next s ∧ ((match a with | .read q .. => q = r | .readReg q _ => q = r | .readTile q .. => q = r | .write q _ => q = r) →
      exec (.debugAccess a) s = .next s)) ∧
    (s.links.pcieHeld = false →
    (exec (.debugUnlock part auth ok) s = .next (
      if s.nymenUp = true ∧ auth = true ∧ ok = true then s.setPart part { s.part part with unlocked := true } else s)) ∧
    (exec (.debugStop r) s = .next (
      if (s.part part).unlocked then s.updStream r fun st => { st with debugReq := true } else s)) ∧
    (shown → addr + n ≤ 0x1800000 → exec (.debugAccess (.read r addr n)) s = .next (out (readBytes (s.core r.core).spad addr n))) ∧
    (shown → k < 64 → exec (.debugAccess (.readReg r (0x180 + 8 * k))) s = .next (out (leBytes 8 (st.regs.get .a k).toNat))) ∧
    (shown → k < 16 → exec (.debugAccess (.readReg r (0x100 + 8 * k))) s = .next (out (leBytes 8 (st.regs.get .k k).toNat))) ∧
    (shown → exec (.debugAccess (.readReg r 0x08)) s = .next (out (leBytes 8 st.regs.pc.toNat))) ∧
    (shown → n < st.zt → k < 16384 → exec (.debugAccess (.readTile r n (16 * k))) s = .next (out (leBytes 8
      ((((s.core r.core).tiles.get (if r.strm = .main then n else 4 - st.zt + n) {}).z.get k {}).v.setWidth 64).toNat))) ∧
    (shown → exec (.debugAccess (.write r (.pc v))) s = .next (s.updRegs r fun g => { g with pc := v })) ∧
    (shown → exec (.debugAccess (.write r (.a (BitVec.ofNat 6 k) x))) s = .next (s.updRegs r fun g => g.put .a (k % 64) x)) ∧
    (¬ shown → (match a with | .read q .. => q = r | .readReg q _ => q = r | .readTile q .. => q = r | .write q _ => q = r) → exec (.debugAccess a) s = .next s)) ∧
    ∃ t, exec (.debugSessionEnd part) s = .next t ∧ (t.part part).unlocked = false ∧ t.mem = s.mem ∧
      t.stream r = { st with debugReq := false, frozen := { st.frozen with debug := false } }

/-- R27, R304 to R306, R308: an epoch of the arbiter. Each partition gets the least of its cap, less what its cores still have of power under recall, its demand and its last grant plus its
slew; a sum above 2,400 W scales every grant by the same factor; a lone core's RATE is its partition's grant as the energy of
one cycle at its point, and BURST and REEF stay. (The rounding down is the model's: log 21.) -/
def Obligations.PowerIsGranted : Prop :=
  ∀ (measured : List (Nat × Nat × Nat)) (s : State),
    let drew (c : Nat) : Nat := ((measured.find? fun p => p.1 == c).map fun p => p.2.1 + p.2.2).getD 0
    let lent (c : Nat) : Nat := (s.arbiter.lending.map fun e => if e.2.recallAt.any fun t => decide (s.time + 1 < t)
      then (e.2.shares.map fun q => if q.1 = c then q.2 else 0).sum else 0).sum
    let asked (n : Nat) (p : Partition) : Nat := min (1000 * min 2400 (p.ppower.toNat % 2 ^ 12) - (p.cores.map lent).sum)
      (min (p.cores.map drew).sum (s.arbiter.grants.get n 0 + 1000 * (p.ppower.toNat / 2 ^ 24 % 2 ^ 16)))
    let live := s.mast.parts.filter fun p => p.2.active
    let total := (live.map fun p => asked p.1 p.2).sum
    let given (n : Nat) (p : Partition) : Nat := if 2400000 < total then asked n p * 2400000 / total else asked n p
    (∀ m ∈ measured, m.1 < numCores) → (∀ d ∈ s.arbiter.penalties, s.time < d.ends) →
    (∃ t, exec (.arbiterEpoch measured) s = .next t ∧ t.time = s.time + 1 ∧ t.mem = s.mem ∧ t.mast = s.mast ∧
      ((live.map Prod.fst).Nodup → ∀ p ∈ live, t.arbiter.grants.get p.1 0 = given p.1 p.2) ∧
      (∀ c, ∀ i : Nat, 10 ≤ i → (t.core c).power.pgrant.getLsbD i = (s.core c).power.pgrant.getLsbD i) ∧
      (∀ c, (t.core c).spad = (s.core c).spad ∧ (t.core c).main = (s.core c).main ∧ (t.core c).miz = (s.core c).miz) ∧
      (∀ (n c : Nat) (p : Partition), s.mast.parts = [(n, p)] → p.active = true → p.cores = [c] → c < numCores →
        s.arbiter.cores = [] → s.arbiter.lending = [] → s.arbiter.penalties = [] →
        (t.core c).power.pgrant.toNat % 2 ^ 10 = min 1023 (given n p * 100 /
          [70, 80, 95, 110, 125, 140, 160, 180].getD (s.core c).power.point 180) ∧
        ∀ x, x < numCores → x ≠ c → (t.core x).power.pgrant.toNat % 2 ^ 10 = 0))

/-- R306 to R308, R311: droop and lending. A droop of more than 40 mV halves the RATE and lowers by one point, not below 0, the REEF
of the cores in the cluster of the partition whose current rose most, the lower number on ties, for 4 µs; the end of the penalty puts REEF
back. A cluster whose cores are gated or have issued nothing for 1,024 cycles is idle and lends; once a core of it is at work again it refills at
its grant less what is not yet back, and has all of it after the recall, which is due within 4 µs. The rounding down is the model's (log 21), and so is that the rise of
a partition that the event does not name counts as 0 (log 41). -/
def Obligations.DroopAndLending : Prop :=
  ∀ (core mv part die cl : Nat) (rise : List (Nat × Nat)) (s : State), core < numCores →
    let rate (u : State) (c : Nat) : Nat := (u.core c).power.pgrant.toNat % 2 ^ 10
    let reef (u : State) (c : Nat) : Nat := (u.core c).power.pgrant.toNat / 2 ^ 56 % 8
    let rest (u : State) (c : Nat) : Prop := u.cores = (s.updCore c fun k => { k with power := (u.core c).power }).cores
    let freq (c : Nat) : Nat := [70, 80, 95, 110, 125, 140, 160, 180].getD (s.core c).power.point 180
    let k := 9 * die + cl
    let risen (p : Nat) : Nat := ((rise.find? fun q => q.1 == p).map Prod.snd).getD 0
    let near (c p : Nat) : Prop := c < numCores ∧ c / 36 = core / 36 ∧ clusterOf c = clusterOf core ∧ s.coreOwner c = some p
    let still (c : Nat) : Prop := s.gated c = true ∨ 1024 ≤ (s.core c).quiet
    (40 < mv → mv < 4096 → (∃ c, near c part) → (∀ c p, near c p → risen p < risen part ∨ risen p = risen part ∧ part ≤ p) →
      s.arbiter.penalties = [] →
      ∃ t d, exec (.droopEvent core mv rise) s = .next t ∧ (t.core core).vsense.toNat = mv ∧ t.mem = s.mem ∧
        t.arbiter.penalties = [d] ∧ d.part = part ∧ d.ends = s.time + 4 ∧
        (∀ c, near c part → rate t c = rate s c / 2 ∧ reef t c = reef s c - 1) ∧
        ∀ c, ¬near c part → c ≠ core → t.core c = s.core c) ∧
    (mv ≤ 40 → exec (.droopEvent core mv rise) s =
      .next (s.updCore core fun c => { c with vsense := BitVec.ofNat 64 mv })) ∧
    (die < 4 → cl < 9 →
      (∀ n e, s.arbiter.penalties = [⟨die, cl, part, [(core, n)], e⟩] → n < 8 →
        (e ≤ s.time → ∃ t, exec (.droopPenaltyEnd die cl) s = .next t ∧ t.arbiter.penalties = [] ∧ reef t core = n ∧ rest t core ∧ t.mem = s.mem) ∧
        (s.time < e → exec (.droopPenaltyEnd die cl) s = .next s)) ∧
      ((∀ c < numCores, c / 36 = die → clusterOf c = cl → still c) →
        ∃ t, exec (.clusterIdle die cl) s = .next t ∧ t.arbiter.lend k = { s.arbiter.lend k with idle := true } ∧
          (∀ n, n ≠ k → t.arbiter.lend n = s.arbiter.lend n) ∧ t.cores = s.cores ∧ t.mem = s.mem) ∧
      (core / 36 = die → clusterOf core = cl → ¬still core → exec (.clusterIdle die cl) s = .next s) ∧
      (∀ (b g m : Nat) (e : Lend), core / 36 = die → clusterOf core = cl → ¬still core → b ≠ core → s.arbiter.cores = [(core, g)] →
        s.arbiter.penalties = [] → s.arbiter.lending = [(k, e)] → e.idle = true → e.shares = [(b, m)] →
        ∃ t, exec (.clusterReactivate die cl) s = .next t ∧
          t.arbiter.lend k = { idle := false, shares := [(b, m)], recallAt := some (e.recallAt.getD (s.time + 4)) } ∧
          rate t core = min 1023 ((g - m) * 100 / freq core) ∧ t.mem = s.mem) ∧
      (∀ (b g m n : Nat), core / 36 = die → clusterOf core = cl → b / 36 = die → b ≠ core → s.arbiter.cores = [(core, g)] →
        s.arbiter.penalties = [] → s.arbiter.lending = [(k, { shares := [(b, m)], recallAt := some n })] →
        ∃ t, exec (.lendingRecallComplete die cl) s = .next t ∧ t.arbiter.lend k = {} ∧
          rate t core = min 1023 (g * 100 / freq core) ∧ rate t b = 0 ∧ t.mem = s.mem))

/-- R18, R20, R22 to R24, R277, R311, R315, R316: the end of a transition sets the point and begins the next when the target
changed, after an OPP that has waited; the meter's report of a window of 64 cycles is kept, and what it exceeds the declared weights by is debited in the
first cycle after the window, its refill apart (a report counts for the window in progress, the first one alone: the model's, log 41); a stack's thermal limit shares out what is left and posts event 11 with the
bandwidth left, counted in tenths of a GB/s and rounded down in the event (the model's: log 49); a timer posts event 9;
ports, links and modules train, PCI Express below 4.0 or x1 is held in reset; a corrected error is counted. Where the last two are counted is the
model's (log 50). -/
def Obligations.PointsTimersAndLinks : Prop :=
  ∀ (core n used stack left part timer port station link gen width edge modl pa : Nat) (f : EthForm) (u : UaRate) (res : UcieState)
    (s : State), core < numCores →
    let c := s.core core
    let target := min (c.power.pgrant.toNat / 2 ^ 56 % 8) (max c.main.sys.oppReq.toNat c.miz.sys.oppReq.toNat)
    let width' (w : SMap Nat) : Nat := ((List.range 8).map fun k => w.get k 26624).sum
    let live := s.mast.parts.filter fun p => p.2.active
    let memsh (p : Partition) : Nat := p.ppower.toNat / 2 ^ 40 % 2 ^ 8
    let waits : Bool := s.oppNext ⟨core, .main⟩ || s.oppNext ⟨core, .miz⟩
    let after (i : Instr) (t : State) : Prop := exec i s = .next t
    (c.power.trans = some n → after (.oppTransitionComplete core) (s.updCore core fun c => { c with power :=
      if waits then { c.power with trans := none, point := n, due := 2 }
      else { c.power with trans := if target = n then none else some target, point := min target n, due := 0 } })) ∧
    (after (.meterWindowEnd core used) (s.updCore core fun c => { c with power := { c.power with
      used := some (c.power.used.getD used) } })) ∧
    (let b : Int := min (c.power.bucket + (c.power.pgrant.toNat % 2 ^ 10 : Nat)) (c.power.pgrant.toNat / 2 ^ 24 % 2 ^ 24 : Nat)
     let excess : Nat := c.power.used.getD 0 - c.power.declared
     let p := (tick c 1).power
     if c.cycle.toNat % 64 = 63 then p.bucket = b - excess ∧ p.used = none ∧ p.declared = 0
     else p.bucket = b ∧ p.used = c.power.used ∧ p.declared = c.power.declared) ∧
    (let w := s.memctl.left.set stack (min left 26624) 26624
     stack < 8 → ∃ sh : SMap Nat, after (.thermalLimit stack left) { s with
        memctl := { s.memctl with left := w, shares := sh }
        mast := if width' w = width' s.memctl.left then s.mast
          else s.mast.post ⟨11, BitVec.ofNat 32 (3 * 2 ^ 28), BitVec.ofNat 64 (width' w / 10), 0, s.time⟩ } ∧
        ((live.map Prod.fst).Nodup → ∀ p ∈ live, sh.get p.1 0 = width' w * memsh p.2 / max 256 (live.map fun p => memsh p.2).sum)) ∧
    (let ev : EventRec := ⟨9, BitVec.ofNat 32 (2 * 2 ^ 28 + part % 2 ^ 28), BitVec.ofNat 64 part, BitVec.ofNat 64 timer, s.time⟩
     after (.mastTimer part timer) { s with mast := s.mast.post ev }) ∧
    (port < 8 → after (.ethernetLinkTraining port f) { s with links := { s.links with eth := s.links.eth.set port f .down } }) ∧
    (station < 4 → link < (match s.links.forms.get station .x4 with | .x4 => 1 | .x2x2 => 2 | .x1x4 => 4) → after (.ualinkLinkTraining station link u)
      { s with links := { s.links with ua := s.links.ua.set (4 * station + link) u .down } }) ∧
    (4 ≤ gen → gen ≤ 6 → width ∈ [1, 2, 4, 8] → after (.pcieLinkTraining gen width)
      { s with links := { s.links with pcieGen := gen, pcieWidth := width, flit := gen == 6, pcieHeld := false } }) ∧
    (gen < 4 ∨ width = 0 → after (.pcieLinkTraining gen width) { s with links := { s.links with
      pcieGen := 0, pcieWidth := 0, flit := false, pcieHeld := true, pcieLog := s.links.pcieLog + 1 } }) ∧
    (1 ≤ s.boot.stage → (edge < 4 ∧ modl < 8) ∨ (4 ≤ edge ∧ edge < 8 ∧ modl < 12) → after (.ucieModuleTraining edge modl res)
      { s with links := { s.links with ucie := s.links.ucie.set (16 * edge + modl) res .untrained } }) ∧
    (pa < memSize → after (.correctedSoftError pa) { s with memctl := { s.memctl with corrected := s.memctl.corrected + 1 } })

/-! ### Encodings, reset and the invariant -/

/-- R92, R97 to R106, R109: worked encodings of the instruction reference, one of each slot and format family, read to the
instruction that they stand for. Each word is the slot over its header. -/
def Obligations.ReferenceWordsDecode : Prop :=
  let u : Gd := ⟨false, 0⟩
  let h (pt ct0 ct1 ct2 : BitVec 6) : Eh := ⟨u, false, pt, ct0, ct1, ct2⟩
  let r (n : BitVec 8) : Src := ⟨false, n⟩
  let v (n : BitVec 10) : VSrc := ⟨false, n⟩
  let word (header slot : Nat) : Option Instr := decodeTableWord 64 (header + 2 ^ 16 * slot)
  word 0x0102 0x0010C02A5000 = some (.add u 3 (r 1) (r 0xA5) false) ∧
  word 0x0102 0x003140B09800 = some (.and u 5 (r 5) ⟨true, 9⟩ true) ∧
  word 0x0102 0x00A100340000 = some (.ld u 4 (r 1) 2 true 0) ∧
  word 0x0101 0x00980400001A = some (.loop u (.reg (r 1)) 0x1A) ∧
  word 0x0101 0x012146000000 = some (.wait u 5 6 0 0) ∧
  word 0x0104 0x00A020008024 = some (.vfma u 8 (v 1) (v 2) 2) ∧
  word 0x0108 0x0010120C5030 = some (.aadd u 4 0x83 5 12 0) ∧
  word 0x0110 0x003040800006 = some (.mma (h 2 1 0 0) 0 0 3) ∧
  word 0x0120 0x003020000080 = some (.pgrp (h 1 0 0 0) 1) ∧
  word 0x0140 0x001080000608 = some (.xget (h 4 0 0 0) 24 2) ∧
  word 0x0180 0x00D120841800 = some (.tokj (h 9 1 2 3)) ∧
  decodeTableWord 16 0x0100 = some (.emptyBundle { ew := 0, safe := false, ckpt := false, stop := true })

/-- R110: opcode 0x00 and every opcode above the last of a slot's column is unassigned, and no other is. A bundle that holds such a
slot word, wherever it stands in it, is accepted by no decoding; every slot word of an accepted bundle is the encoding of an
instruction of the bundle. To fetch a bundle with such a slot word raises the illegal-encoding trap, cause 2. -/
def Obligations.UnassignedOpcodesTrap : Prop :=
  (∀ (k : Slot) (w : W48),
    let opc := w.toNat / 2 ^ 36 % 2 ^ 7
    let top := match k with | .K => 0x12 | .A => 0x1A | .V => 0x19 | .L => 0x0C | .M => 0x05 | .P => 0x05 | .X => 0x03 | .D => 0x0D
    (decodeSlot k w = .error .unassigned ↔ opc = 0 ∨ top < opc) ∧
    (∀ (size : Nat) (bs : List Byte), (k, w) ∈ slotWords (presSlots (headerOf bs)) (bs.drop 2) →
      (opc = 0 ∨ top < opc → ∃ e, decodeBundle size bs = .error e) ∧
      ∀ b, decodeBundle size bs = .ok b → ∃ i ∈ b.slots, i.slot = some k ∧ encode i = w) ∧
    ∀ (c : Core) (limit : Nat) (pc : W48), let bs := lineBytes c pc.toNat
      pc.toNat < limit → isFill (headerOf (readBytes c.prog pc.toNat 2)) = false → (k, w) ∈ slotWords (presSlots (headerOf bs)) (bs.drop 2) →
      (opc = 0 ∨ top < opc) → ∃ detail, (fetchBundle c limit pc).pc = pc ∧ (fetchBundle c limit pc).res = .error (2, detail))

/-- R97 to R106: every well-formed slot, with every operand at every value, is read back from its own word. R92, R93, R95, R111:
every well-formed bundle is read back from its bytes, whatever follows them. -/
def Obligations.EncodingsDecode : Prop :=
  (∀ (k : Slot) (i : Instr), i.slot = some k → i.wf = true → decodeSlot k (encode i) = .ok i) ∧
  (∀ (size : Nat) (b : Bundle) (rest : List Byte), b.wf size = true → decodeBundle size (encodeBundle b ++ rest) = .ok b)

/-- R97 to R111: no two words of a slot stand for one instruction: an accepted word is the encoding of what it is read as, which is
well-formed, so every bit of it has its meaning and no reserved bit is set. -/
def Obligations.AcceptedWordsAreEncodings : Prop := ∀ (k : Slot) (w : W48) (i : Instr), decodeSlot k w = .ok i → encode i = w ∧ i.slot = some k ∧ i.wf = true

/-- R4, R44, R79, R131, R140, R163, R171, R197, R285, R295, R306, R310: what package cold reset leaves, for the fields
that a Reset column or a rule gives a value. That the tags are not valid (R172), the fans are empty (R147), the transform parameters (R243) and the results
of PACK and SUM (R398) are 0 the manual says of a launch: that they are so from cold reset on is the model's (log 2). -/
def Obligations.ResetLeavesTheGivenValues : Prop :=
  ∀ (n z e t : Nat) (r : SRef) (part ctx : Nat),
    let s := State.reset
    let st := s.stream r
    let tile := (s.core n).tiles.get z {}
    st.sys.oppReq = 5 ∧ (s.core n).power.point = 5 ∧ (s.core n).power.pgrant = 0x0700100000000000 ∧
    (tile.z.get e {}).fl = 0 ∧ tile.tstat = 0 ∧ st.regs.fmtr = 0x600 ∧ st.regs.slack = 0xFFFF ∧ st.regs.dom = 4 ∧
    (st.regs.tags.get t {}).valid = false ∧ st.regs.fans.get t .empty = .empty ∧ st.regs.loops = [] ∧ ({} : LoopEntry).word = 0 ∧ st.regs.g.getLsbD 0 = true ∧
    (st.gen (st.regs.t.get t 0)) = { set := true, bind := 0, status := 0 } ∧ st.regs.xparam.get t 0 = 0 ∧ st.regs.packRes = 0 ∧
    st.regs.sumRes = 0 ∧ st.sys.tcause = 0 ∧ st.run = .idle ∧ st.launch = none ∧
    (s.part part).active = false ∧ (s.part part).ppower = 0 ∧ (s.ctx ctx).contain = 0x000A0000 ∧ s.mast.events = [] ∧ s.time = 0 ∧
    s.boot.stage = 0 ∧ s.boot.measured = []

/-- The memory of the reset state is in canonical form. (The form is the model's: log 3.) -/
def Obligations.ResetMemoryIsCanonical : Prop := Memory.wf State.reset.mem = true

/-- No step breaks the canonical form of device memory: addresses strictly rising, no entry equal to what an unlisted address reads
as, so that equal memories are equal data. (The form is the model's: log 3.) -/
def Obligations.StepsKeepMemoryCanonical : Prop := ∀ (s t : State), Memory.wf s.mem = true → step s = .next t → Memory.wf t.mem = true
end

