-- ==== Sys2Proof/Laws/Bits.lean ====
section
/-! SUPPORT. Laws of fields and packing: reading a field of packed fields gives the field packed, and little-endian bytes
read back. -/
namespace Sys2Proof

/-- The field of `len` bits at `lo` of a number. -/
def fldN (a lo len : Nat) : BitVec len := BitVec.ofNat len (a >>> lo)

theorem fld_ofNat {n a lo len : Nat} (h : lo + len ≤ n) : fld (BitVec.ofNat n a) lo len = fldN a lo len := by
  apply BitVec.eq_of_toNat_eq
  simp only [fld, fldN, BitVec.toNat_ofNat]
  rw [Nat.shiftRight_eq_div_pow, Nat.shiftRight_eq_div_pow]
  obtain ⟨k, rfl⟩ := Nat.exists_eq_add_of_le h
  rw [show 2 ^ (lo + len + k) = 2 ^ lo * (2 ^ len * 2 ^ k) by rw [← Nat.pow_add, ← Nat.pow_add]; congr 1; omega,
    Nat.mod_mul_right_div_self, Nat.mod_mul_right_mod]

theorem fldN_push_ge {m : Nat} (a lo len : Nat) (x : BitVec m) (h : m ≤ lo) : fldN (push a x) lo len = fldN a (lo - m) len := by
  unfold fldN push
  congr 1
  rw [Nat.shiftRight_eq_div_pow, Nat.shiftRight_eq_div_pow]
  obtain ⟨k, rfl⟩ := Nat.exists_eq_add_of_le h
  rw [Nat.pow_add, ← Nat.div_div_eq_div_mul]
  have := x.isLt
  rw [Nat.mul_comm, Nat.mul_add_div (Nat.two_pow_pos m), Nat.div_eq_of_lt this]
  simp

theorem fldN_push_eq {m : Nat} (a : Nat) (x : BitVec m) : fldN (push a x) 0 m = x := by
  apply BitVec.eq_of_toNat_eq
  have := x.isLt
  simp [fldN, push, Nat.mod_eq_of_lt this]

theorem flag_bit1 (b : Bool) : (bit1 b == 1#1) = b := by cases b <;> rfl

@[simp] theorem leBytes_length (n : Nat) : ∀ v, (leBytes n v).length = n := by
  induction n with
  | zero => exact fun _ => rfl
  | succ n ih => intro v; simp [leBytes, ih]

/-- The value of the bytes of a value. -/
theorem leNat_leBytes (n : Nat) : ∀ v, leNat (leBytes n v) = v % 256 ^ n := by
  induction n with
  | zero => intro v; simp [leBytes, leNat, Nat.mod_one]
  | succ n ih =>
    intro v
    rw [leBytes, leNat, ih, BitVec.toNat_ofNat, Nat.pow_succ' (m := 256)]
    exact (Nat.mod_mul (x := v) (a := 256) (b := 256 ^ n)).symm

/-- The bytes of the value of bytes. -/
theorem leBytes_leNat (bs : List Byte) : leBytes bs.length (leNat bs) = bs := by
  induction bs with
  | nil => rfl
  | cons b t ih =>
    have hb := b.isLt
    simp only [List.length_cons, leBytes, leNat]
    congr 1
    · apply BitVec.eq_of_toNat_eq; simp; omega
    · rw [show (b.toNat + 256 * leNat t) / 256 = leNat t by omega, ih]

end Sys2Proof
end

