-- ==== Sys2Proof/Laws/Store.lean ====
section
/-! SUPPORT. Laws of sparse maps and byte stores: a read after a write, and the canonical form kept by every write. -/
namespace Sys2Proof

variable {α : Type}

theorem SMap.get_nil (k : Nat) (d : α) : SMap.get ([] : SMap α) k d = d := rfl

theorem SMap.get_cons (j : Nat) (v : α) (t : SMap α) (k : Nat) (d : α) :
    SMap.get ((j, v) :: t) k d = if j = k then v else SMap.get t k d := rfl

theorem SMap.erase_cons (j : Nat) (v : α) (t : SMap α) (k : Nat) :
    SMap.erase ((j, v) :: t) k = if j = k then SMap.erase t k else (j, v) :: SMap.erase t k := by
  by_cases h : j = k <;> simp [SMap.erase, h]

theorem SMap.get_erase (m : SMap α) (k j : Nat) (d : α) :
    SMap.get (SMap.erase m k) j d = if j = k then d else SMap.get m j d := by
  induction m with
  | nil => simp [SMap.erase, SMap.get]
  | cons p t ih =>
    obtain ⟨i, v⟩ := p
    rw [SMap.erase_cons, SMap.get_cons]
    by_cases hik : i = k
    · rw [if_pos hik, ih]
      by_cases hjk : j = k
      · rw [if_pos hjk, if_pos hjk]
      · rw [if_neg hjk, if_neg hjk, if_neg (by omega)]
    · rw [if_neg hik, SMap.get_cons, ih]
      by_cases hjk : j = k
      · simp [hjk, hik]
      · simp [hjk]

theorem SMap.get_place (m : SMap α) (k j : Nat) (v d : α) (h : ∀ p ∈ m, p.1 ≠ k) :
    SMap.get (SMap.place m k v) j d = if j = k then v else SMap.get m j d := by
  induction m with
  | nil => simp [SMap.place, SMap.get, eq_comm]
  | cons p t ih =>
    obtain ⟨i, w⟩ := p
    simp only [SMap.place]
    split
    · simp only [SMap.get_cons]
      by_cases hj : j = k
      · simp [hj]
      · rw [if_neg (Ne.symm hj), if_neg hj]
    · rw [SMap.get_cons, SMap.get_cons, ih fun p hp => h p (.tail _ hp)]
      by_cases hj : j = k
      · have := h (i, w) (.head _)
        simp_all
      · simp [hj]

theorem SMap.erase_ne (m : SMap α) (k : Nat) : ∀ p ∈ SMap.erase m k, p.1 ≠ k := by
  intro p hp
  simpa [SMap.erase] using (List.mem_filter.1 hp).2

/-- A read after a write. -/
theorem SMap.get_set [DecidableEq α] (m : SMap α) (k j : Nat) (v d : α) :
    SMap.get (SMap.set m k v d) j d = if j = k then v else SMap.get m j d := by
  unfold SMap.set
  split
  · rename_i h; rw [SMap.get_erase, h]
  · rw [SMap.get_place _ _ _ _ _ (SMap.erase_ne m k), SMap.get_erase]
    by_cases hj : j = k <;> simp [hj]

@[simp] theorem SMap.get_set_same [DecidableEq α] (m : SMap α) (k : Nat) (v d : α) :
    SMap.get (SMap.set m k v d) k d = v := by simp [SMap.get_set]

theorem SMap.get_set_ne [DecidableEq α] (m : SMap α) (k j : Nat) (v d : α) (h : j ≠ k) :
    SMap.get (SMap.set m k v d) j d = SMap.get m j d := by simp [SMap.get_set, h]

theorem SMap.erase_erase (m : SMap α) (k : Nat) : SMap.erase (SMap.erase m k) k = SMap.erase m k := by
  simp [SMap.erase]

theorem SMap.erase_place (m : SMap α) (k : Nat) (v : α) : SMap.erase (SMap.place m k v) k = SMap.erase m k := by
  induction m with
  | nil => simp [SMap.place, SMap.erase]
  | cons p t ih =>
    obtain ⟨i, w⟩ := p
    simp only [SMap.place]
    split
    · rw [SMap.erase_cons, if_pos rfl]
    · rw [SMap.erase_cons, SMap.erase_cons, ih]

/-- The later of two writes at one key is the one that counts. -/
@[simp] theorem SMap.set_set [DecidableEq α] (m : SMap α) (k : Nat) (v w d : α) :
    SMap.set (SMap.set m k v d) k w d = SMap.set m k w d := by
  have h : SMap.erase (SMap.set m k v d) k = SMap.erase m k := by
    unfold SMap.set
    split
    · rw [SMap.erase_erase]
    · rw [SMap.erase_place, SMap.erase_erase]
  unfold SMap.set at h ⊢
  rw [h]

/-! ### The canonical form -/

theorem SMap.canon_cons [DecidableEq α] (d : α) (k : Nat) (v : α) (t : SMap α) :
    SMap.canon d ((k, v) :: t) = true ↔ v ≠ d ∧ (∀ p ∈ t, k < p.1) ∧ SMap.canon d t = true := by
  simp [SMap.canon, and_assoc]

theorem SMap.canon_erase [DecidableEq α] (d : α) (m : SMap α) (k : Nat) (h : SMap.canon d m = true) :
    SMap.canon d (SMap.erase m k) = true := by
  induction m with
  | nil => rfl
  | cons p t ih =>
    obtain ⟨i, v⟩ := p
    obtain ⟨hv, hlt, ht⟩ := (SMap.canon_cons d i v t).1 h
    rw [SMap.erase_cons]
    split
    · exact ih ht
    · exact (SMap.canon_cons d i v _).2 ⟨hv, fun p hp => hlt p (List.mem_filter.1 hp).1, ih ht⟩

theorem SMap.mem_place (m : SMap α) (k : Nat) (v : α) (p : Nat × α) (h : p ∈ SMap.place m k v) : p = (k, v) ∨ p ∈ m := by
  induction m with
  | nil => simpa [SMap.place] using h
  | cons q t ih =>
    obtain ⟨i, w⟩ := q
    simp only [SMap.place] at h
    split at h
    · simpa using h
    · rcases List.mem_cons.1 h with h | h
      · exact .inr (h ▸ .head _)
      · exact (ih h).imp id (.tail _)

theorem SMap.canon_place [DecidableEq α] (d : α) (m : SMap α) (k : Nat) (v : α) (hv : v ≠ d) (hk : ∀ p ∈ m, p.1 ≠ k)
    (h : SMap.canon d m = true) : SMap.canon d (SMap.place m k v) = true := by
  induction m with
  | nil => simp [SMap.place, SMap.canon, hv]
  | cons p t ih =>
    obtain ⟨i, w⟩ := p
    obtain ⟨hw, hlt, ht⟩ := (SMap.canon_cons d i w t).1 h
    simp only [SMap.place]
    split
    · rename_i hki
      exact (SMap.canon_cons d k v _).2 ⟨hv, fun p hp => by
        rcases List.mem_cons.1 hp with h | h
        · exact h ▸ hki
        · exact Nat.lt_trans hki (hlt p h), h⟩
    · rename_i hki
      have hik : i < k := by have := hk (i, w) (.head _); simp at this; omega
      exact (SMap.canon_cons d i w _).2 ⟨hw, fun p hp => by
        rcases SMap.mem_place t k v p hp with h | h
        · exact h ▸ hik
        · exact hlt p h, ih (fun p hp => hk p (.tail _ hp)) ht⟩

/-- A write keeps the canonical form. -/
theorem SMap.canon_set [DecidableEq α] (d : α) (m : SMap α) (k : Nat) (v : α) (h : SMap.canon d m = true) :
    SMap.canon d (SMap.set m k v d) = true := by
  unfold SMap.set
  split
  · exact SMap.canon_erase d m k h
  · exact SMap.canon_place d _ k v (by assumption) (SMap.erase_ne m k) (SMap.canon_erase d m k h)

/-! ### Byte stores -/

theorem Memory.wf_nil : Memory.wf [] = true := rfl

theorem Memory.wf_set (m : SMap Byte) (a : Nat) (b : Byte) (h : Memory.wf m = true) : Memory.wf (m.set a b 0) = true :=
  SMap.canon_set 0 m a b h

/-- Writing bytes keeps the canonical form. -/
theorem Memory.wf_writeBytes (bs : List Byte) : ∀ (m : SMap Byte) (a : Nat), Memory.wf m = true →
    Memory.wf (writeBytes m a bs) = true := by
  induction bs with
  | nil => exact fun _ _ h => h
  | cons b t ih => exact fun m a h => ih _ _ (Memory.wf_set m a b h)

/-- A byte outside the bytes written reads as before. -/
theorem writeBytes_get_out (bs : List Byte) : ∀ (m : SMap Byte) (a x : Nat), (x < a ∨ a + bs.length ≤ x) →
    SMap.get (writeBytes m a bs) x 0 = SMap.get m x 0 := by
  induction bs with
  | nil => exact fun _ _ _ _ => rfl
  | cons b t ih =>
    intro m a x h
    have hl : (b :: t).length = t.length + 1 := rfl
    simp only [writeBytes]
    rw [ih _ _ _ (by omega), SMap.get_set_ne _ _ _ _ _ (by omega)]

/-- A byte that was written reads as written. -/
theorem writeBytes_get_in (bs : List Byte) : ∀ (m : SMap Byte) (a i : Nat) (h : i < bs.length),
    SMap.get (writeBytes m a bs) (a + i) 0 = bs[i] := by
  induction bs with
  | nil => exact fun _ _ i h => absurd h (Nat.not_lt_zero i)
  | cons b t ih =>
    intro m a i h
    simp only [writeBytes]
    cases i with
    | zero => rw [writeBytes_get_out _ _ _ _ (by omega), Nat.add_zero]; simp
    | succ i =>
      have := ih (m.set a b 0) (a + 1) i (by simpa using h)
      rw [show a + (i + 1) = a + 1 + i by omega, this]; rfl

/-- The bytes written read back. -/
theorem readBytes_writeBytes (m : SMap Byte) (a : Nat) (bs : List Byte) :
    readBytes (writeBytes m a bs) a bs.length = bs := by
  apply List.ext_getElem
  · simp [readBytes]
  · intro i h₁ h₂
    simpa [readBytes] using writeBytes_get_in bs m a i h₂

end Sys2Proof
end

