-- ==== Sys2Proof/Laws/Memory.lean ====
section
/-! SUPPORT. Laws of device memory: every memory operation keeps the canonical form, and what a write leaves to read. -/
namespace Sys2Proof.Machine

/-! ### The canonical form -/

/-- A fold keeps what each of its steps keeps. -/
theorem foldl_keeps {α β : Type} (P : β → Prop) (f : β → α → β) (hf : ∀ b a, P b → P (f b a)) :
    ∀ (l : List α) (b : β), P b → P (l.foldl f b)
  | [], _, h => h
  | a :: l, b, h => foldl_keeps P f hf l (f b a) (hf b a h)

theorem State.rekey_wf {s : State} (slot line : Nat) (h : Memory.wf s.mem = true) : Memory.wf (s.rekey slot line).mem = true := by
  unfold State.rekey
  simp only
  split
  · exact h
  · exact Memory.wf_writeBytes _ _ _ h

/-- R235: a write keeps the canonical form. -/
theorem State.memWrite_wf {s : State} (slot pa : Nat) (bs : List Byte) (h : Memory.wf s.mem = true) :
    Memory.wf (s.memWrite slot pa bs).mem = true :=
  Memory.wf_writeBytes _ _ _ (foldl_keeps (fun s : State => Memory.wf s.mem = true) _ (fun _ _ h => State.rekey_wf slot _ h) _ s h)

theorem State.physWrite_wf {s : State} (pa : Nat) (bs : List Byte) (h : Memory.wf s.mem = true) :
    Memory.wf (s.physWrite pa bs).mem = true := by
  refine Memory.wf_writeBytes _ _ _ (foldl_keeps (fun s : State => Memory.wf s.mem = true) _ (fun b a h => ?_) _ s h)
  split
  · exact State.rekey_wf 0 a h
  · exact h

theorem State.logLine_wf {s : State} (ctx line : Nat) (h : Memory.wf s.mem = true) : Memory.wf (s.logLine ctx line).mem = true :=
  State.physWrite_wf _ _ h

theorem State.ctxWrite_wf {s : State} (ctx slot pa : Nat) (bs : List Byte) (h : Memory.wf s.mem = true) :
    Memory.wf (s.ctxWrite ctx slot pa bs).mem = true := by
  refine State.memWrite_wf slot pa bs ?_
  split
  · exact foldl_keeps (fun s : State => Memory.wf s.mem = true) _ (fun _ _ h => State.logLine_wf ctx _ h) _ s h
  · exact h

theorem State.peerWriteMem_wf {s : State} (slot pa : Nat) (bs : List Byte) (h : Memory.wf s.mem = true) :
    Memory.wf (s.peerWriteMem slot pa bs).mem = true := State.memWrite_wf slot pa bs h

theorem State.setDesc_wf {s : State} (e : QEntry) (off : Nat) (v : W64) (h : Memory.wf s.mem = true) :
    Memory.wf (s.setDesc e off v).mem = true := State.physWrite_wf _ _ h

theorem State.undoMemory_wf {s : State} (l : List (Nat × List Byte × Option (Nat × Nat))) (h : Memory.wf s.mem = true) :
    Memory.wf (s.undoMemory l).mem = true :=
  foldl_keeps (fun s : State => Memory.wf s.mem = true) _ (fun _ _ h => Memory.wf_writeBytes _ _ _ h) l s h

/-! ### Reading -/

/-- A write touches device memory and the lines' keys alone. -/
theorem State.rekey_rest (s : State) (slot line : Nat) :
    s.rekey slot line = { s with mem := (s.rekey slot line).mem, keys := (s.rekey slot line).keys } := by
  unfold State.rekey
  simp only
  split <;> rfl

theorem State.memWrite_rest (s : State) (slot pa : Nat) (bs : List Byte) :
    s.memWrite slot pa bs = { s with mem := (s.memWrite slot pa bs).mem, keys := (s.memWrite slot pa bs).keys } := by
  have h : ∀ (l : List Nat) (s : State), l.foldl (fun s l => s.rekey slot l) s =
      { s with mem := (l.foldl (fun s l => s.rekey slot l) s).mem, keys := (l.foldl (fun s l => s.rekey slot l) s).keys } := by
    intro l
    induction l with
    | nil => exact fun _ => rfl
    | cons a l ih =>
      intro s
      simp only [List.foldl_cons]
      rw [ih (s.rekey slot a), State.rekey_rest s slot a]
  unfold State.memWrite
  simp only
  rw [h _ s]

/-- The loads of the key slots stay. -/
theorem State.rekey_now (s : State) (slot line n : Nat) : (s.rekey slot line).keys.now n = s.keys.now n := by
  unfold State.rekey
  simp only
  split <;> rfl

/-- A line under another key takes the new one, its bytes as they read. -/
theorem State.rekey_new {s : State} {slot line : Nat} (hn : s.keys.lines.get line none ≠ some (s.keys.now slot)) :
    s.rekey slot line = { s with
      mem := writeBytes s.mem (64 * line) (s.memRead slot (64 * line) 64)
      keys := { s.keys with lines := s.keys.lines.set line (some (s.keys.now slot)) none } } := if_neg hn

/-- Under its own key a line reads as before when it takes that key (R302). -/
theorem State.rekey_memByte (s : State) (slot line pa : Nat) : (s.rekey slot line).memByte slot pa = s.memByte slot pa := by
  by_cases hn : s.keys.lines.get line none = some (s.keys.now slot)
  · simp [State.rekey, hn]
  · by_cases hl : pa / 64 = line
    · have hmem : (s.rekey slot line).memByte slot pa =
          SMap.get (writeBytes s.mem (64 * line) (s.memRead slot (64 * line) 64)) pa 0 := by
        subst hl
        rw [State.rekey_new hn]
        simp only [State.memByte, SMap.get_set_same, Keys.now, if_true]
      have hlen : (s.memRead slot (64 * line) 64).length = 64 := by simp [State.memRead]
      have := writeBytes_get_in (s.memRead slot (64 * line) 64) s.mem (64 * line) (pa % 64) (by rw [hlen]; omega)
      rw [show 64 * line + pa % 64 = pa by omega] at this
      rw [hmem, this]
      simp only [State.memRead, List.getElem_map, List.getElem_range]
      rw [show 64 * line + pa % 64 = pa by omega]
    · have hout : ∀ x, x / 64 ≠ line →
          SMap.get (writeBytes s.mem (64 * line) (s.memRead slot (64 * line) 64)) x 0 = SMap.get s.mem x 0 := fun x hx =>
        writeBytes_get_out _ _ _ _ (by simp [State.memRead]; omega)
      have hbytes : readBytes (writeBytes s.mem (64 * line) (s.memRead slot (64 * line) 64)) (64 * (pa / 64)) 64 =
          readBytes s.mem (64 * (pa / 64)) 64 := by
        simp only [readBytes]
        apply List.map_congr_left
        intro i hi
        have hi : i < 64 := by simpa using hi
        exact hout _ (by omega)
      rw [State.rekey_new hn]
      simp only [State.memByte]
      rw [SMap.get_set_ne _ _ _ _ _ hl]
      simp only [hbytes, hout pa hl, Keys.now]
      rfl

end Sys2Proof.Machine
end

