-- ==== Sys2Proof/Laws/State.lean ====
section
/-! SUPPORT. What each update of the state leaves, field by field, and what is read back after it. -/
namespace Sys2Proof.Machine

/-! ### setCore -/

@[simp] theorem State.setCore_mem (s : State) (n : Nat) (c : Core) : (s.setCore n c).mem = s.mem := rfl
@[simp] theorem State.setCore_cur (s : State) (n : Nat) (c : Core) : (s.setCore n c).cur = s.cur := rfl
@[simp] theorem State.setCore_frame (s : State) (n : Nat) (c : Core) : (s.setCore n c).frame = s.frame := rfl
@[simp] theorem State.setCore_agenda (s : State) (n : Nat) (c : Core) : (s.setCore n c).agenda = s.agenda := rfl
@[simp] theorem State.setCore_time (s : State) (n : Nat) (c : Core) : (s.setCore n c).time = s.time := rfl
@[simp] theorem State.setCore_free (s : State) (n : Nat) (c : Core) : (s.setCore n c).free = s.free := rfl
@[simp] theorem State.setCore_fe (s : State) (n : Nat) (c : Core) : (s.setCore n c).fe = s.fe := rfl
@[simp] theorem State.setCore_mast (s : State) (n : Nat) (c : Core) : (s.setCore n c).mast = s.mast := rfl
@[simp] theorem State.setCore_keys (s : State) (n : Nat) (c : Core) : (s.setCore n c).keys = s.keys := rfl
@[simp] theorem State.setCore_dies (s : State) (n : Nat) (c : Core) : (s.setCore n c).dies = s.dies := rfl
@[simp] theorem State.setCore_faults (s : State) (n : Nat) (c : Core) : (s.setCore n c).faults = s.faults := rfl
@[simp] theorem State.setCore_nextFault (s : State) (n : Nat) (c : Core) : (s.setCore n c).nextFault = s.nextFault := rfl
@[simp] theorem State.setCore_peers (s : State) (n : Nat) (c : Core) : (s.setCore n c).peers = s.peers := rfl
@[simp] theorem State.setCore_egress (s : State) (n : Nat) (c : Core) : (s.setCore n c).egress = s.egress := rfl
@[simp] theorem State.setCore_recov (s : State) (n : Nat) (c : Core) : (s.setCore n c).recov = s.recov := rfl
@[simp] theorem State.setCore_saved (s : State) (n : Nat) (c : Core) : (s.setCore n c).saved = s.saved := rfl
@[simp] theorem State.setCore_boot (s : State) (n : Nat) (c : Core) : (s.setCore n c).boot = s.boot := rfl
@[simp] theorem State.setCore_crash (s : State) (n : Nat) (c : Core) : (s.setCore n c).crash = s.crash := rfl
@[simp] theorem State.setCore_debugOut (s : State) (n : Nat) (c : Core) : (s.setCore n c).debugOut = s.debugOut := rfl
@[simp] theorem State.setCore_debugBrk (s : State) (n : Nat) (c : Core) : (s.setCore n c).debugBrk = s.debugBrk := rfl
@[simp] theorem State.setCore_arbiter (s : State) (n : Nat) (c : Core) : (s.setCore n c).arbiter = s.arbiter := rfl
@[simp] theorem State.setCore_memctl (s : State) (n : Nat) (c : Core) : (s.setCore n c).memctl = s.memctl := rfl
@[simp] theorem State.setCore_links (s : State) (n : Nat) (c : Core) : (s.setCore n c).links = s.links := rfl
@[simp] theorem State.setCore_fabric (s : State) (n : Nat) (c : Core) : (s.setCore n c).fabric = s.fabric := rfl

/-! ### setStream -/

@[simp] theorem State.setStream_mem (s : State) (r : SRef) (st : Stream) : (s.setStream r st).mem = s.mem := rfl
@[simp] theorem State.setStream_cur (s : State) (r : SRef) (st : Stream) : (s.setStream r st).cur = s.cur := rfl
@[simp] theorem State.setStream_frame (s : State) (r : SRef) (st : Stream) : (s.setStream r st).frame = s.frame := rfl
@[simp] theorem State.setStream_agenda (s : State) (r : SRef) (st : Stream) : (s.setStream r st).agenda = s.agenda := rfl
@[simp] theorem State.setStream_time (s : State) (r : SRef) (st : Stream) : (s.setStream r st).time = s.time := rfl
@[simp] theorem State.setStream_free (s : State) (r : SRef) (st : Stream) : (s.setStream r st).free = s.free := rfl
@[simp] theorem State.setStream_fe (s : State) (r : SRef) (st : Stream) : (s.setStream r st).fe = s.fe := rfl
@[simp] theorem State.setStream_mast (s : State) (r : SRef) (st : Stream) : (s.setStream r st).mast = s.mast := rfl
@[simp] theorem State.setStream_keys (s : State) (r : SRef) (st : Stream) : (s.setStream r st).keys = s.keys := rfl
@[simp] theorem State.setStream_dies (s : State) (r : SRef) (st : Stream) : (s.setStream r st).dies = s.dies := rfl
@[simp] theorem State.setStream_faults (s : State) (r : SRef) (st : Stream) : (s.setStream r st).faults = s.faults := rfl
@[simp] theorem State.setStream_nextFault (s : State) (r : SRef) (st : Stream) : (s.setStream r st).nextFault = s.nextFault := rfl
@[simp] theorem State.setStream_peers (s : State) (r : SRef) (st : Stream) : (s.setStream r st).peers = s.peers := rfl
@[simp] theorem State.setStream_egress (s : State) (r : SRef) (st : Stream) : (s.setStream r st).egress = s.egress := rfl
@[simp] theorem State.setStream_recov (s : State) (r : SRef) (st : Stream) : (s.setStream r st).recov = s.recov := rfl
@[simp] theorem State.setStream_saved (s : State) (r : SRef) (st : Stream) : (s.setStream r st).saved = s.saved := rfl
@[simp] theorem State.setStream_boot (s : State) (r : SRef) (st : Stream) : (s.setStream r st).boot = s.boot := rfl
@[simp] theorem State.setStream_crash (s : State) (r : SRef) (st : Stream) : (s.setStream r st).crash = s.crash := rfl
@[simp] theorem State.setStream_debugOut (s : State) (r : SRef) (st : Stream) : (s.setStream r st).debugOut = s.debugOut := rfl
@[simp] theorem State.setStream_debugBrk (s : State) (r : SRef) (st : Stream) : (s.setStream r st).debugBrk = s.debugBrk := rfl
@[simp] theorem State.setStream_arbiter (s : State) (r : SRef) (st : Stream) : (s.setStream r st).arbiter = s.arbiter := rfl
@[simp] theorem State.setStream_memctl (s : State) (r : SRef) (st : Stream) : (s.setStream r st).memctl = s.memctl := rfl
@[simp] theorem State.setStream_links (s : State) (r : SRef) (st : Stream) : (s.setStream r st).links = s.links := rfl
@[simp] theorem State.setStream_fabric (s : State) (r : SRef) (st : Stream) : (s.setStream r st).fabric = s.fabric := rfl

/-! ### updStream -/

@[simp] theorem State.updStream_mem (s : State) (r : SRef) (f : Stream → Stream) : (s.updStream r f).mem = s.mem := rfl
@[simp] theorem State.updStream_cur (s : State) (r : SRef) (f : Stream → Stream) : (s.updStream r f).cur = s.cur := rfl
@[simp] theorem State.updStream_frame (s : State) (r : SRef) (f : Stream → Stream) : (s.updStream r f).frame = s.frame := rfl
@[simp] theorem State.updStream_agenda (s : State) (r : SRef) (f : Stream → Stream) : (s.updStream r f).agenda = s.agenda := rfl
@[simp] theorem State.updStream_time (s : State) (r : SRef) (f : Stream → Stream) : (s.updStream r f).time = s.time := rfl
@[simp] theorem State.updStream_free (s : State) (r : SRef) (f : Stream → Stream) : (s.updStream r f).free = s.free := rfl
@[simp] theorem State.updStream_fe (s : State) (r : SRef) (f : Stream → Stream) : (s.updStream r f).fe = s.fe := rfl
@[simp] theorem State.updStream_mast (s : State) (r : SRef) (f : Stream → Stream) : (s.updStream r f).mast = s.mast := rfl
@[simp] theorem State.updStream_keys (s : State) (r : SRef) (f : Stream → Stream) : (s.updStream r f).keys = s.keys := rfl
@[simp] theorem State.updStream_dies (s : State) (r : SRef) (f : Stream → Stream) : (s.updStream r f).dies = s.dies := rfl
@[simp] theorem State.updStream_faults (s : State) (r : SRef) (f : Stream → Stream) : (s.updStream r f).faults = s.faults := rfl
@[simp] theorem State.updStream_nextFault (s : State) (r : SRef) (f : Stream → Stream) : (s.updStream r f).nextFault = s.nextFault := rfl
@[simp] theorem State.updStream_peers (s : State) (r : SRef) (f : Stream → Stream) : (s.updStream r f).peers = s.peers := rfl
@[simp] theorem State.updStream_egress (s : State) (r : SRef) (f : Stream → Stream) : (s.updStream r f).egress = s.egress := rfl
@[simp] theorem State.updStream_recov (s : State) (r : SRef) (f : Stream → Stream) : (s.updStream r f).recov = s.recov := rfl
@[simp] theorem State.updStream_saved (s : State) (r : SRef) (f : Stream → Stream) : (s.updStream r f).saved = s.saved := rfl
@[simp] theorem State.updStream_boot (s : State) (r : SRef) (f : Stream → Stream) : (s.updStream r f).boot = s.boot := rfl
@[simp] theorem State.updStream_crash (s : State) (r : SRef) (f : Stream → Stream) : (s.updStream r f).crash = s.crash := rfl
@[simp] theorem State.updStream_debugOut (s : State) (r : SRef) (f : Stream → Stream) : (s.updStream r f).debugOut = s.debugOut := rfl
@[simp] theorem State.updStream_debugBrk (s : State) (r : SRef) (f : Stream → Stream) : (s.updStream r f).debugBrk = s.debugBrk := rfl
@[simp] theorem State.updStream_arbiter (s : State) (r : SRef) (f : Stream → Stream) : (s.updStream r f).arbiter = s.arbiter := rfl
@[simp] theorem State.updStream_memctl (s : State) (r : SRef) (f : Stream → Stream) : (s.updStream r f).memctl = s.memctl := rfl
@[simp] theorem State.updStream_links (s : State) (r : SRef) (f : Stream → Stream) : (s.updStream r f).links = s.links := rfl
@[simp] theorem State.updStream_fabric (s : State) (r : SRef) (f : Stream → Stream) : (s.updStream r f).fabric = s.fabric := rfl

/-! ### updRegs -/

@[simp] theorem State.updRegs_mem (s : State) (r : SRef) (f : Regs → Regs) : (s.updRegs r f).mem = s.mem := rfl
@[simp] theorem State.updRegs_cur (s : State) (r : SRef) (f : Regs → Regs) : (s.updRegs r f).cur = s.cur := rfl
@[simp] theorem State.updRegs_frame (s : State) (r : SRef) (f : Regs → Regs) : (s.updRegs r f).frame = s.frame := rfl
@[simp] theorem State.updRegs_agenda (s : State) (r : SRef) (f : Regs → Regs) : (s.updRegs r f).agenda = s.agenda := rfl
@[simp] theorem State.updRegs_time (s : State) (r : SRef) (f : Regs → Regs) : (s.updRegs r f).time = s.time := rfl
@[simp] theorem State.updRegs_free (s : State) (r : SRef) (f : Regs → Regs) : (s.updRegs r f).free = s.free := rfl
@[simp] theorem State.updRegs_fe (s : State) (r : SRef) (f : Regs → Regs) : (s.updRegs r f).fe = s.fe := rfl
@[simp] theorem State.updRegs_mast (s : State) (r : SRef) (f : Regs → Regs) : (s.updRegs r f).mast = s.mast := rfl
@[simp] theorem State.updRegs_keys (s : State) (r : SRef) (f : Regs → Regs) : (s.updRegs r f).keys = s.keys := rfl
@[simp] theorem State.updRegs_dies (s : State) (r : SRef) (f : Regs → Regs) : (s.updRegs r f).dies = s.dies := rfl
@[simp] theorem State.updRegs_faults (s : State) (r : SRef) (f : Regs → Regs) : (s.updRegs r f).faults = s.faults := rfl
@[simp] theorem State.updRegs_nextFault (s : State) (r : SRef) (f : Regs → Regs) : (s.updRegs r f).nextFault = s.nextFault := rfl
@[simp] theorem State.updRegs_peers (s : State) (r : SRef) (f : Regs → Regs) : (s.updRegs r f).peers = s.peers := rfl
@[simp] theorem State.updRegs_egress (s : State) (r : SRef) (f : Regs → Regs) : (s.updRegs r f).egress = s.egress := rfl
@[simp] theorem State.updRegs_recov (s : State) (r : SRef) (f : Regs → Regs) : (s.updRegs r f).recov = s.recov := rfl
@[simp] theorem State.updRegs_saved (s : State) (r : SRef) (f : Regs → Regs) : (s.updRegs r f).saved = s.saved := rfl
@[simp] theorem State.updRegs_boot (s : State) (r : SRef) (f : Regs → Regs) : (s.updRegs r f).boot = s.boot := rfl
@[simp] theorem State.updRegs_crash (s : State) (r : SRef) (f : Regs → Regs) : (s.updRegs r f).crash = s.crash := rfl
@[simp] theorem State.updRegs_debugOut (s : State) (r : SRef) (f : Regs → Regs) : (s.updRegs r f).debugOut = s.debugOut := rfl
@[simp] theorem State.updRegs_debugBrk (s : State) (r : SRef) (f : Regs → Regs) : (s.updRegs r f).debugBrk = s.debugBrk := rfl
@[simp] theorem State.updRegs_arbiter (s : State) (r : SRef) (f : Regs → Regs) : (s.updRegs r f).arbiter = s.arbiter := rfl
@[simp] theorem State.updRegs_memctl (s : State) (r : SRef) (f : Regs → Regs) : (s.updRegs r f).memctl = s.memctl := rfl
@[simp] theorem State.updRegs_links (s : State) (r : SRef) (f : Regs → Regs) : (s.updRegs r f).links = s.links := rfl
@[simp] theorem State.updRegs_fabric (s : State) (r : SRef) (f : Regs → Regs) : (s.updRegs r f).fabric = s.fabric := rfl

/-! ### updSys -/

@[simp] theorem State.updSys_mem (s : State) (r : SRef) (f : StreamSys → StreamSys) : (s.updSys r f).mem = s.mem := rfl
@[simp] theorem State.updSys_cur (s : State) (r : SRef) (f : StreamSys → StreamSys) : (s.updSys r f).cur = s.cur := rfl
@[simp] theorem State.updSys_frame (s : State) (r : SRef) (f : StreamSys → StreamSys) : (s.updSys r f).frame = s.frame := rfl
@[simp] theorem State.updSys_agenda (s : State) (r : SRef) (f : StreamSys → StreamSys) : (s.updSys r f).agenda = s.agenda := rfl
@[simp] theorem State.updSys_time (s : State) (r : SRef) (f : StreamSys → StreamSys) : (s.updSys r f).time = s.time := rfl
@[simp] theorem State.updSys_free (s : State) (r : SRef) (f : StreamSys → StreamSys) : (s.updSys r f).free = s.free := rfl
@[simp] theorem State.updSys_fe (s : State) (r : SRef) (f : StreamSys → StreamSys) : (s.updSys r f).fe = s.fe := rfl
@[simp] theorem State.updSys_mast (s : State) (r : SRef) (f : StreamSys → StreamSys) : (s.updSys r f).mast = s.mast := rfl
@[simp] theorem State.updSys_keys (s : State) (r : SRef) (f : StreamSys → StreamSys) : (s.updSys r f).keys = s.keys := rfl
@[simp] theorem State.updSys_dies (s : State) (r : SRef) (f : StreamSys → StreamSys) : (s.updSys r f).dies = s.dies := rfl
@[simp] theorem State.updSys_faults (s : State) (r : SRef) (f : StreamSys → StreamSys) : (s.updSys r f).faults = s.faults := rfl
@[simp] theorem State.updSys_nextFault (s : State) (r : SRef) (f : StreamSys → StreamSys) : (s.updSys r f).nextFault = s.nextFault := rfl
@[simp] theorem State.updSys_peers (s : State) (r : SRef) (f : StreamSys → StreamSys) : (s.updSys r f).peers = s.peers := rfl
@[simp] theorem State.updSys_egress (s : State) (r : SRef) (f : StreamSys → StreamSys) : (s.updSys r f).egress = s.egress := rfl
@[simp] theorem State.updSys_recov (s : State) (r : SRef) (f : StreamSys → StreamSys) : (s.updSys r f).recov = s.recov := rfl
@[simp] theorem State.updSys_saved (s : State) (r : SRef) (f : StreamSys → StreamSys) : (s.updSys r f).saved = s.saved := rfl
@[simp] theorem State.updSys_boot (s : State) (r : SRef) (f : StreamSys → StreamSys) : (s.updSys r f).boot = s.boot := rfl
@[simp] theorem State.updSys_crash (s : State) (r : SRef) (f : StreamSys → StreamSys) : (s.updSys r f).crash = s.crash := rfl
@[simp] theorem State.updSys_debugOut (s : State) (r : SRef) (f : StreamSys → StreamSys) : (s.updSys r f).debugOut = s.debugOut := rfl
@[simp] theorem State.updSys_debugBrk (s : State) (r : SRef) (f : StreamSys → StreamSys) : (s.updSys r f).debugBrk = s.debugBrk := rfl
@[simp] theorem State.updSys_arbiter (s : State) (r : SRef) (f : StreamSys → StreamSys) : (s.updSys r f).arbiter = s.arbiter := rfl
@[simp] theorem State.updSys_memctl (s : State) (r : SRef) (f : StreamSys → StreamSys) : (s.updSys r f).memctl = s.memctl := rfl
@[simp] theorem State.updSys_links (s : State) (r : SRef) (f : StreamSys → StreamSys) : (s.updSys r f).links = s.links := rfl
@[simp] theorem State.updSys_fabric (s : State) (r : SRef) (f : StreamSys → StreamSys) : (s.updSys r f).fabric = s.fabric := rfl

/-! ### updCore -/

@[simp] theorem State.updCore_mem (s : State) (n : Nat) (f : Core → Core) : (s.updCore n f).mem = s.mem := rfl
@[simp] theorem State.updCore_cur (s : State) (n : Nat) (f : Core → Core) : (s.updCore n f).cur = s.cur := rfl
@[simp] theorem State.updCore_frame (s : State) (n : Nat) (f : Core → Core) : (s.updCore n f).frame = s.frame := rfl
@[simp] theorem State.updCore_agenda (s : State) (n : Nat) (f : Core → Core) : (s.updCore n f).agenda = s.agenda := rfl
@[simp] theorem State.updCore_time (s : State) (n : Nat) (f : Core → Core) : (s.updCore n f).time = s.time := rfl
@[simp] theorem State.updCore_free (s : State) (n : Nat) (f : Core → Core) : (s.updCore n f).free = s.free := rfl
@[simp] theorem State.updCore_fe (s : State) (n : Nat) (f : Core → Core) : (s.updCore n f).fe = s.fe := rfl
@[simp] theorem State.updCore_mast (s : State) (n : Nat) (f : Core → Core) : (s.updCore n f).mast = s.mast := rfl
@[simp] theorem State.updCore_keys (s : State) (n : Nat) (f : Core → Core) : (s.updCore n f).keys = s.keys := rfl
@[simp] theorem State.updCore_dies (s : State) (n : Nat) (f : Core → Core) : (s.updCore n f).dies = s.dies := rfl
@[simp] theorem State.updCore_faults (s : State) (n : Nat) (f : Core → Core) : (s.updCore n f).faults = s.faults := rfl
@[simp] theorem State.updCore_nextFault (s : State) (n : Nat) (f : Core → Core) : (s.updCore n f).nextFault = s.nextFault := rfl
@[simp] theorem State.updCore_peers (s : State) (n : Nat) (f : Core → Core) : (s.updCore n f).peers = s.peers := rfl
@[simp] theorem State.updCore_egress (s : State) (n : Nat) (f : Core → Core) : (s.updCore n f).egress = s.egress := rfl
@[simp] theorem State.updCore_recov (s : State) (n : Nat) (f : Core → Core) : (s.updCore n f).recov = s.recov := rfl
@[simp] theorem State.updCore_saved (s : State) (n : Nat) (f : Core → Core) : (s.updCore n f).saved = s.saved := rfl
@[simp] theorem State.updCore_boot (s : State) (n : Nat) (f : Core → Core) : (s.updCore n f).boot = s.boot := rfl
@[simp] theorem State.updCore_crash (s : State) (n : Nat) (f : Core → Core) : (s.updCore n f).crash = s.crash := rfl
@[simp] theorem State.updCore_debugOut (s : State) (n : Nat) (f : Core → Core) : (s.updCore n f).debugOut = s.debugOut := rfl
@[simp] theorem State.updCore_debugBrk (s : State) (n : Nat) (f : Core → Core) : (s.updCore n f).debugBrk = s.debugBrk := rfl
@[simp] theorem State.updCore_arbiter (s : State) (n : Nat) (f : Core → Core) : (s.updCore n f).arbiter = s.arbiter := rfl
@[simp] theorem State.updCore_memctl (s : State) (n : Nat) (f : Core → Core) : (s.updCore n f).memctl = s.memctl := rfl
@[simp] theorem State.updCore_links (s : State) (n : Nat) (f : Core → Core) : (s.updCore n f).links = s.links := rfl
@[simp] theorem State.updCore_fabric (s : State) (n : Nat) (f : Core → Core) : (s.updCore n f).fabric = s.fabric := rfl

/-! ### setFrame -/

@[simp] theorem State.setFrame_cores (s : State) (f : Frame) : (s.setFrame f).cores = s.cores := rfl
@[simp] theorem State.setFrame_mem (s : State) (f : Frame) : (s.setFrame f).mem = s.mem := rfl
@[simp] theorem State.setFrame_cur (s : State) (f : Frame) : (s.setFrame f).cur = s.cur := rfl
@[simp] theorem State.setFrame_agenda (s : State) (f : Frame) : (s.setFrame f).agenda = s.agenda := rfl
@[simp] theorem State.setFrame_time (s : State) (f : Frame) : (s.setFrame f).time = s.time := rfl
@[simp] theorem State.setFrame_free (s : State) (f : Frame) : (s.setFrame f).free = s.free := rfl
@[simp] theorem State.setFrame_fe (s : State) (f : Frame) : (s.setFrame f).fe = s.fe := rfl
@[simp] theorem State.setFrame_mast (s : State) (f : Frame) : (s.setFrame f).mast = s.mast := rfl
@[simp] theorem State.setFrame_keys (s : State) (f : Frame) : (s.setFrame f).keys = s.keys := rfl
@[simp] theorem State.setFrame_dies (s : State) (f : Frame) : (s.setFrame f).dies = s.dies := rfl
@[simp] theorem State.setFrame_faults (s : State) (f : Frame) : (s.setFrame f).faults = s.faults := rfl
@[simp] theorem State.setFrame_nextFault (s : State) (f : Frame) : (s.setFrame f).nextFault = s.nextFault := rfl
@[simp] theorem State.setFrame_peers (s : State) (f : Frame) : (s.setFrame f).peers = s.peers := rfl
@[simp] theorem State.setFrame_egress (s : State) (f : Frame) : (s.setFrame f).egress = s.egress := rfl
@[simp] theorem State.setFrame_recov (s : State) (f : Frame) : (s.setFrame f).recov = s.recov := rfl
@[simp] theorem State.setFrame_saved (s : State) (f : Frame) : (s.setFrame f).saved = s.saved := rfl
@[simp] theorem State.setFrame_boot (s : State) (f : Frame) : (s.setFrame f).boot = s.boot := rfl
@[simp] theorem State.setFrame_crash (s : State) (f : Frame) : (s.setFrame f).crash = s.crash := rfl
@[simp] theorem State.setFrame_debugOut (s : State) (f : Frame) : (s.setFrame f).debugOut = s.debugOut := rfl
@[simp] theorem State.setFrame_debugBrk (s : State) (f : Frame) : (s.setFrame f).debugBrk = s.debugBrk := rfl
@[simp] theorem State.setFrame_arbiter (s : State) (f : Frame) : (s.setFrame f).arbiter = s.arbiter := rfl
@[simp] theorem State.setFrame_memctl (s : State) (f : Frame) : (s.setFrame f).memctl = s.memctl := rfl
@[simp] theorem State.setFrame_links (s : State) (f : Frame) : (s.setFrame f).links = s.links := rfl
@[simp] theorem State.setFrame_fabric (s : State) (f : Frame) : (s.setFrame f).fabric = s.fabric := rfl

/-! ### post -/

@[simp] theorem State.post_cores (s : State) (ty : Nat) (key : W32) (a0 a1 : W64) : (s.post ty key a0 a1).cores = s.cores := rfl
@[simp] theorem State.post_mem (s : State) (ty : Nat) (key : W32) (a0 a1 : W64) : (s.post ty key a0 a1).mem = s.mem := rfl
@[simp] theorem State.post_cur (s : State) (ty : Nat) (key : W32) (a0 a1 : W64) : (s.post ty key a0 a1).cur = s.cur := rfl
@[simp] theorem State.post_frame (s : State) (ty : Nat) (key : W32) (a0 a1 : W64) : (s.post ty key a0 a1).frame = s.frame := rfl
@[simp] theorem State.post_agenda (s : State) (ty : Nat) (key : W32) (a0 a1 : W64) : (s.post ty key a0 a1).agenda = s.agenda := rfl
@[simp] theorem State.post_time (s : State) (ty : Nat) (key : W32) (a0 a1 : W64) : (s.post ty key a0 a1).time = s.time := rfl
@[simp] theorem State.post_free (s : State) (ty : Nat) (key : W32) (a0 a1 : W64) : (s.post ty key a0 a1).free = s.free := rfl
@[simp] theorem State.post_fe (s : State) (ty : Nat) (key : W32) (a0 a1 : W64) : (s.post ty key a0 a1).fe = s.fe := rfl
@[simp] theorem State.post_keys (s : State) (ty : Nat) (key : W32) (a0 a1 : W64) : (s.post ty key a0 a1).keys = s.keys := rfl
@[simp] theorem State.post_dies (s : State) (ty : Nat) (key : W32) (a0 a1 : W64) : (s.post ty key a0 a1).dies = s.dies := rfl
@[simp] theorem State.post_faults (s : State) (ty : Nat) (key : W32) (a0 a1 : W64) : (s.post ty key a0 a1).faults = s.faults := rfl
@[simp] theorem State.post_nextFault (s : State) (ty : Nat) (key : W32) (a0 a1 : W64) : (s.post ty key a0 a1).nextFault = s.nextFault := rfl
@[simp] theorem State.post_peers (s : State) (ty : Nat) (key : W32) (a0 a1 : W64) : (s.post ty key a0 a1).peers = s.peers := rfl
@[simp] theorem State.post_egress (s : State) (ty : Nat) (key : W32) (a0 a1 : W64) : (s.post ty key a0 a1).egress = s.egress := rfl
@[simp] theorem State.post_recov (s : State) (ty : Nat) (key : W32) (a0 a1 : W64) : (s.post ty key a0 a1).recov = s.recov := rfl
@[simp] theorem State.post_saved (s : State) (ty : Nat) (key : W32) (a0 a1 : W64) : (s.post ty key a0 a1).saved = s.saved := rfl
@[simp] theorem State.post_boot (s : State) (ty : Nat) (key : W32) (a0 a1 : W64) : (s.post ty key a0 a1).boot = s.boot := rfl
@[simp] theorem State.post_crash (s : State) (ty : Nat) (key : W32) (a0 a1 : W64) : (s.post ty key a0 a1).crash = s.crash := rfl
@[simp] theorem State.post_debugOut (s : State) (ty : Nat) (key : W32) (a0 a1 : W64) : (s.post ty key a0 a1).debugOut = s.debugOut := rfl
@[simp] theorem State.post_debugBrk (s : State) (ty : Nat) (key : W32) (a0 a1 : W64) : (s.post ty key a0 a1).debugBrk = s.debugBrk := rfl
@[simp] theorem State.post_arbiter (s : State) (ty : Nat) (key : W32) (a0 a1 : W64) : (s.post ty key a0 a1).arbiter = s.arbiter := rfl
@[simp] theorem State.post_memctl (s : State) (ty : Nat) (key : W32) (a0 a1 : W64) : (s.post ty key a0 a1).memctl = s.memctl := rfl
@[simp] theorem State.post_links (s : State) (ty : Nat) (key : W32) (a0 a1 : W64) : (s.post ty key a0 a1).links = s.links := rfl
@[simp] theorem State.post_fabric (s : State) (ty : Nat) (key : W32) (a0 a1 : W64) : (s.post ty key a0 a1).fabric = s.fabric := rfl

/-! ### wr -/

@[simp] theorem State.wr_mem (s : State) (f : RFile) (n : Nat) (v : W64) : (s.wr f n v).mem = s.mem := rfl
@[simp] theorem State.wr_cur (s : State) (f : RFile) (n : Nat) (v : W64) : (s.wr f n v).cur = s.cur := rfl
@[simp] theorem State.wr_frame (s : State) (f : RFile) (n : Nat) (v : W64) : (s.wr f n v).frame = s.frame := rfl
@[simp] theorem State.wr_agenda (s : State) (f : RFile) (n : Nat) (v : W64) : (s.wr f n v).agenda = s.agenda := rfl
@[simp] theorem State.wr_time (s : State) (f : RFile) (n : Nat) (v : W64) : (s.wr f n v).time = s.time := rfl
@[simp] theorem State.wr_free (s : State) (f : RFile) (n : Nat) (v : W64) : (s.wr f n v).free = s.free := rfl
@[simp] theorem State.wr_fe (s : State) (f : RFile) (n : Nat) (v : W64) : (s.wr f n v).fe = s.fe := rfl
@[simp] theorem State.wr_mast (s : State) (f : RFile) (n : Nat) (v : W64) : (s.wr f n v).mast = s.mast := rfl
@[simp] theorem State.wr_keys (s : State) (f : RFile) (n : Nat) (v : W64) : (s.wr f n v).keys = s.keys := rfl
@[simp] theorem State.wr_dies (s : State) (f : RFile) (n : Nat) (v : W64) : (s.wr f n v).dies = s.dies := rfl
@[simp] theorem State.wr_faults (s : State) (f : RFile) (n : Nat) (v : W64) : (s.wr f n v).faults = s.faults := rfl
@[simp] theorem State.wr_nextFault (s : State) (f : RFile) (n : Nat) (v : W64) : (s.wr f n v).nextFault = s.nextFault := rfl
@[simp] theorem State.wr_peers (s : State) (f : RFile) (n : Nat) (v : W64) : (s.wr f n v).peers = s.peers := rfl
@[simp] theorem State.wr_egress (s : State) (f : RFile) (n : Nat) (v : W64) : (s.wr f n v).egress = s.egress := rfl
@[simp] theorem State.wr_recov (s : State) (f : RFile) (n : Nat) (v : W64) : (s.wr f n v).recov = s.recov := rfl
@[simp] theorem State.wr_saved (s : State) (f : RFile) (n : Nat) (v : W64) : (s.wr f n v).saved = s.saved := rfl
@[simp] theorem State.wr_boot (s : State) (f : RFile) (n : Nat) (v : W64) : (s.wr f n v).boot = s.boot := rfl
@[simp] theorem State.wr_crash (s : State) (f : RFile) (n : Nat) (v : W64) : (s.wr f n v).crash = s.crash := rfl
@[simp] theorem State.wr_debugOut (s : State) (f : RFile) (n : Nat) (v : W64) : (s.wr f n v).debugOut = s.debugOut := rfl
@[simp] theorem State.wr_debugBrk (s : State) (f : RFile) (n : Nat) (v : W64) : (s.wr f n v).debugBrk = s.debugBrk := rfl
@[simp] theorem State.wr_arbiter (s : State) (f : RFile) (n : Nat) (v : W64) : (s.wr f n v).arbiter = s.arbiter := rfl
@[simp] theorem State.wr_memctl (s : State) (f : RFile) (n : Nat) (v : W64) : (s.wr f n v).memctl = s.memctl := rfl
@[simp] theorem State.wr_links (s : State) (f : RFile) (n : Nat) (v : W64) : (s.wr f n v).links = s.links := rfl
@[simp] theorem State.wr_fabric (s : State) (f : RFile) (n : Nat) (v : W64) : (s.wr f n v).fabric = s.fabric := rfl

/-! ### wrV -/

@[simp] theorem State.wrV_mem (s : State) (n : Nat) (v : VReg) : (s.wrV n v).mem = s.mem := rfl
@[simp] theorem State.wrV_cur (s : State) (n : Nat) (v : VReg) : (s.wrV n v).cur = s.cur := rfl
@[simp] theorem State.wrV_frame (s : State) (n : Nat) (v : VReg) : (s.wrV n v).frame = s.frame := rfl
@[simp] theorem State.wrV_agenda (s : State) (n : Nat) (v : VReg) : (s.wrV n v).agenda = s.agenda := rfl
@[simp] theorem State.wrV_time (s : State) (n : Nat) (v : VReg) : (s.wrV n v).time = s.time := rfl
@[simp] theorem State.wrV_free (s : State) (n : Nat) (v : VReg) : (s.wrV n v).free = s.free := rfl
@[simp] theorem State.wrV_fe (s : State) (n : Nat) (v : VReg) : (s.wrV n v).fe = s.fe := rfl
@[simp] theorem State.wrV_mast (s : State) (n : Nat) (v : VReg) : (s.wrV n v).mast = s.mast := rfl
@[simp] theorem State.wrV_keys (s : State) (n : Nat) (v : VReg) : (s.wrV n v).keys = s.keys := rfl
@[simp] theorem State.wrV_dies (s : State) (n : Nat) (v : VReg) : (s.wrV n v).dies = s.dies := rfl
@[simp] theorem State.wrV_faults (s : State) (n : Nat) (v : VReg) : (s.wrV n v).faults = s.faults := rfl
@[simp] theorem State.wrV_nextFault (s : State) (n : Nat) (v : VReg) : (s.wrV n v).nextFault = s.nextFault := rfl
@[simp] theorem State.wrV_peers (s : State) (n : Nat) (v : VReg) : (s.wrV n v).peers = s.peers := rfl
@[simp] theorem State.wrV_egress (s : State) (n : Nat) (v : VReg) : (s.wrV n v).egress = s.egress := rfl
@[simp] theorem State.wrV_recov (s : State) (n : Nat) (v : VReg) : (s.wrV n v).recov = s.recov := rfl
@[simp] theorem State.wrV_saved (s : State) (n : Nat) (v : VReg) : (s.wrV n v).saved = s.saved := rfl
@[simp] theorem State.wrV_boot (s : State) (n : Nat) (v : VReg) : (s.wrV n v).boot = s.boot := rfl
@[simp] theorem State.wrV_crash (s : State) (n : Nat) (v : VReg) : (s.wrV n v).crash = s.crash := rfl
@[simp] theorem State.wrV_debugOut (s : State) (n : Nat) (v : VReg) : (s.wrV n v).debugOut = s.debugOut := rfl
@[simp] theorem State.wrV_debugBrk (s : State) (n : Nat) (v : VReg) : (s.wrV n v).debugBrk = s.debugBrk := rfl
@[simp] theorem State.wrV_arbiter (s : State) (n : Nat) (v : VReg) : (s.wrV n v).arbiter = s.arbiter := rfl
@[simp] theorem State.wrV_memctl (s : State) (n : Nat) (v : VReg) : (s.wrV n v).memctl = s.memctl := rfl
@[simp] theorem State.wrV_links (s : State) (n : Nat) (v : VReg) : (s.wrV n v).links = s.links := rfl
@[simp] theorem State.wrV_fabric (s : State) (n : Nat) (v : VReg) : (s.wrV n v).fabric = s.fabric := rfl

/-! ### spadWrite -/

@[simp] theorem State.spadWrite_mem (s : State) (a : Nat) (bs : List Byte) : (s.spadWrite a bs).mem = s.mem := rfl
@[simp] theorem State.spadWrite_cur (s : State) (a : Nat) (bs : List Byte) : (s.spadWrite a bs).cur = s.cur := rfl
@[simp] theorem State.spadWrite_frame (s : State) (a : Nat) (bs : List Byte) : (s.spadWrite a bs).frame = s.frame := rfl
@[simp] theorem State.spadWrite_agenda (s : State) (a : Nat) (bs : List Byte) : (s.spadWrite a bs).agenda = s.agenda := rfl
@[simp] theorem State.spadWrite_time (s : State) (a : Nat) (bs : List Byte) : (s.spadWrite a bs).time = s.time := rfl
@[simp] theorem State.spadWrite_free (s : State) (a : Nat) (bs : List Byte) : (s.spadWrite a bs).free = s.free := rfl
@[simp] theorem State.spadWrite_fe (s : State) (a : Nat) (bs : List Byte) : (s.spadWrite a bs).fe = s.fe := rfl
@[simp] theorem State.spadWrite_mast (s : State) (a : Nat) (bs : List Byte) : (s.spadWrite a bs).mast = s.mast := rfl
@[simp] theorem State.spadWrite_keys (s : State) (a : Nat) (bs : List Byte) : (s.spadWrite a bs).keys = s.keys := rfl
@[simp] theorem State.spadWrite_dies (s : State) (a : Nat) (bs : List Byte) : (s.spadWrite a bs).dies = s.dies := rfl
@[simp] theorem State.spadWrite_faults (s : State) (a : Nat) (bs : List Byte) : (s.spadWrite a bs).faults = s.faults := rfl
@[simp] theorem State.spadWrite_nextFault (s : State) (a : Nat) (bs : List Byte) : (s.spadWrite a bs).nextFault = s.nextFault := rfl
@[simp] theorem State.spadWrite_peers (s : State) (a : Nat) (bs : List Byte) : (s.spadWrite a bs).peers = s.peers := rfl
@[simp] theorem State.spadWrite_egress (s : State) (a : Nat) (bs : List Byte) : (s.spadWrite a bs).egress = s.egress := rfl
@[simp] theorem State.spadWrite_recov (s : State) (a : Nat) (bs : List Byte) : (s.spadWrite a bs).recov = s.recov := rfl
@[simp] theorem State.spadWrite_saved (s : State) (a : Nat) (bs : List Byte) : (s.spadWrite a bs).saved = s.saved := rfl
@[simp] theorem State.spadWrite_boot (s : State) (a : Nat) (bs : List Byte) : (s.spadWrite a bs).boot = s.boot := rfl
@[simp] theorem State.spadWrite_crash (s : State) (a : Nat) (bs : List Byte) : (s.spadWrite a bs).crash = s.crash := rfl
@[simp] theorem State.spadWrite_debugOut (s : State) (a : Nat) (bs : List Byte) : (s.spadWrite a bs).debugOut = s.debugOut := rfl
@[simp] theorem State.spadWrite_debugBrk (s : State) (a : Nat) (bs : List Byte) : (s.spadWrite a bs).debugBrk = s.debugBrk := rfl
@[simp] theorem State.spadWrite_arbiter (s : State) (a : Nat) (bs : List Byte) : (s.spadWrite a bs).arbiter = s.arbiter := rfl
@[simp] theorem State.spadWrite_memctl (s : State) (a : Nat) (bs : List Byte) : (s.spadWrite a bs).memctl = s.memctl := rfl
@[simp] theorem State.spadWrite_links (s : State) (a : Nat) (bs : List Byte) : (s.spadWrite a bs).links = s.links := rfl
@[simp] theorem State.spadWrite_fabric (s : State) (a : Nat) (bs : List Byte) : (s.spadWrite a bs).fabric = s.fabric := rfl

/-! ### askCkpt -/

@[simp] theorem State.askCkpt_mem (s : State) : (s.askCkpt).mem = s.mem := rfl
@[simp] theorem State.askCkpt_cur (s : State) : (s.askCkpt).cur = s.cur := rfl
@[simp] theorem State.askCkpt_frame (s : State) : (s.askCkpt).frame = s.frame := rfl
@[simp] theorem State.askCkpt_agenda (s : State) : (s.askCkpt).agenda = s.agenda := rfl
@[simp] theorem State.askCkpt_time (s : State) : (s.askCkpt).time = s.time := rfl
@[simp] theorem State.askCkpt_free (s : State) : (s.askCkpt).free = s.free := rfl
@[simp] theorem State.askCkpt_fe (s : State) : (s.askCkpt).fe = s.fe := rfl
@[simp] theorem State.askCkpt_mast (s : State) : (s.askCkpt).mast = s.mast := rfl
@[simp] theorem State.askCkpt_keys (s : State) : (s.askCkpt).keys = s.keys := rfl
@[simp] theorem State.askCkpt_dies (s : State) : (s.askCkpt).dies = s.dies := rfl
@[simp] theorem State.askCkpt_faults (s : State) : (s.askCkpt).faults = s.faults := rfl
@[simp] theorem State.askCkpt_nextFault (s : State) : (s.askCkpt).nextFault = s.nextFault := rfl
@[simp] theorem State.askCkpt_peers (s : State) : (s.askCkpt).peers = s.peers := rfl
@[simp] theorem State.askCkpt_egress (s : State) : (s.askCkpt).egress = s.egress := rfl
@[simp] theorem State.askCkpt_recov (s : State) : (s.askCkpt).recov = s.recov := rfl
@[simp] theorem State.askCkpt_saved (s : State) : (s.askCkpt).saved = s.saved := rfl
@[simp] theorem State.askCkpt_boot (s : State) : (s.askCkpt).boot = s.boot := rfl
@[simp] theorem State.askCkpt_crash (s : State) : (s.askCkpt).crash = s.crash := rfl
@[simp] theorem State.askCkpt_debugOut (s : State) : (s.askCkpt).debugOut = s.debugOut := rfl
@[simp] theorem State.askCkpt_debugBrk (s : State) : (s.askCkpt).debugBrk = s.debugBrk := rfl
@[simp] theorem State.askCkpt_arbiter (s : State) : (s.askCkpt).arbiter = s.arbiter := rfl
@[simp] theorem State.askCkpt_memctl (s : State) : (s.askCkpt).memctl = s.memctl := rfl
@[simp] theorem State.askCkpt_links (s : State) : (s.askCkpt).links = s.links := rfl
@[simp] theorem State.askCkpt_fabric (s : State) : (s.askCkpt).fabric = s.fabric := rfl

/-! ### ckptAfter -/

@[simp] theorem State.ckptAfter_mem (s : State) (a : AfterCkpt) : (s.ckptAfter a).mem = s.mem := rfl
@[simp] theorem State.ckptAfter_cur (s : State) (a : AfterCkpt) : (s.ckptAfter a).cur = s.cur := rfl
@[simp] theorem State.ckptAfter_frame (s : State) (a : AfterCkpt) : (s.ckptAfter a).frame = s.frame := rfl
@[simp] theorem State.ckptAfter_agenda (s : State) (a : AfterCkpt) : (s.ckptAfter a).agenda = s.agenda := rfl
@[simp] theorem State.ckptAfter_time (s : State) (a : AfterCkpt) : (s.ckptAfter a).time = s.time := rfl
@[simp] theorem State.ckptAfter_free (s : State) (a : AfterCkpt) : (s.ckptAfter a).free = s.free := rfl
@[simp] theorem State.ckptAfter_fe (s : State) (a : AfterCkpt) : (s.ckptAfter a).fe = s.fe := rfl
@[simp] theorem State.ckptAfter_mast (s : State) (a : AfterCkpt) : (s.ckptAfter a).mast = s.mast := rfl
@[simp] theorem State.ckptAfter_keys (s : State) (a : AfterCkpt) : (s.ckptAfter a).keys = s.keys := rfl
@[simp] theorem State.ckptAfter_dies (s : State) (a : AfterCkpt) : (s.ckptAfter a).dies = s.dies := rfl
@[simp] theorem State.ckptAfter_faults (s : State) (a : AfterCkpt) : (s.ckptAfter a).faults = s.faults := rfl
@[simp] theorem State.ckptAfter_nextFault (s : State) (a : AfterCkpt) : (s.ckptAfter a).nextFault = s.nextFault := rfl
@[simp] theorem State.ckptAfter_peers (s : State) (a : AfterCkpt) : (s.ckptAfter a).peers = s.peers := rfl
@[simp] theorem State.ckptAfter_egress (s : State) (a : AfterCkpt) : (s.ckptAfter a).egress = s.egress := rfl
@[simp] theorem State.ckptAfter_recov (s : State) (a : AfterCkpt) : (s.ckptAfter a).recov = s.recov := rfl
@[simp] theorem State.ckptAfter_saved (s : State) (a : AfterCkpt) : (s.ckptAfter a).saved = s.saved := rfl
@[simp] theorem State.ckptAfter_boot (s : State) (a : AfterCkpt) : (s.ckptAfter a).boot = s.boot := rfl
@[simp] theorem State.ckptAfter_crash (s : State) (a : AfterCkpt) : (s.ckptAfter a).crash = s.crash := rfl
@[simp] theorem State.ckptAfter_debugOut (s : State) (a : AfterCkpt) : (s.ckptAfter a).debugOut = s.debugOut := rfl
@[simp] theorem State.ckptAfter_debugBrk (s : State) (a : AfterCkpt) : (s.ckptAfter a).debugBrk = s.debugBrk := rfl
@[simp] theorem State.ckptAfter_arbiter (s : State) (a : AfterCkpt) : (s.ckptAfter a).arbiter = s.arbiter := rfl
@[simp] theorem State.ckptAfter_memctl (s : State) (a : AfterCkpt) : (s.ckptAfter a).memctl = s.memctl := rfl
@[simp] theorem State.ckptAfter_links (s : State) (a : AfterCkpt) : (s.ckptAfter a).links = s.links := rfl
@[simp] theorem State.ckptAfter_fabric (s : State) (a : AfterCkpt) : (s.ckptAfter a).fabric = s.fabric := rfl

@[simp] theorem State.setFrame_frame (s : State) (f : Frame) : (s.setFrame f).frame = f := rfl
@[simp] theorem State.post_mast (s : State) (ty : Nat) (key : W32) (a0 a1 : W64) :
    (s.post ty key a0 a1).mast = s.mast.post ⟨ty, key, a0, a1, s.time⟩ := rfl
@[simp] theorem Mast.post_registry (m : Mast) (e : EventRec) : (m.post e).registry = m.registry := by
  unfold Mast.post
  split
  · rfl
  · split <;> rfl

/-! ### Streams of a core -/

@[simp] theorem streamOf_putStream_same (c : Core) (w : Strm) (st : Stream) : streamOf (putStream c w st) w = st := by
  cases w <;> rfl
theorem streamOf_putStream (c : Core) (w x : Strm) (st : Stream) :
    streamOf (putStream c w st) x = if x = w then st else streamOf c x := by cases w <;> cases x <;> rfl
@[simp] theorem putStream_streamOf (c : Core) (w : Strm) : putStream c w (streamOf c w) = c := by cases w <;> rfl
@[simp] theorem putStream_putStream (c : Core) (w : Strm) (a b : Stream) :
    putStream (putStream c w a) w b = putStream c w b := by cases w <;> rfl
@[simp] theorem putStream_v (c : Core) (w : Strm) (st : Stream) : (putStream c w st).v = c.v := by cases w <;> rfl
@[simp] theorem putStream_tiles (c : Core) (w : Strm) (st : Stream) : (putStream c w st).tiles = c.tiles := by cases w <;> rfl
@[simp] theorem putStream_spad (c : Core) (w : Strm) (st : Stream) : (putStream c w st).spad = c.spad := by cases w <;> rfl
@[simp] theorem putStream_prog (c : Core) (w : Strm) (st : Stream) : (putStream c w st).prog = c.prog := by cases w <;> rfl
@[simp] theorem putStream_clusterOwner (c : Core) (w : Strm) (st : Stream) : (putStream c w st).clusterOwner = c.clusterOwner := by cases w <;> rfl
@[simp] theorem putStream_cycle (c : Core) (w : Strm) (st : Stream) : (putStream c w st).cycle = c.cycle := by cases w <;> rfl
@[simp] theorem putStream_tsense (c : Core) (w : Strm) (st : Stream) : (putStream c w st).tsense = c.tsense := by cases w <;> rfl
@[simp] theorem putStream_vsense (c : Core) (w : Strm) (st : Stream) : (putStream c w st).vsense = c.vsense := by cases w <;> rfl
@[simp] theorem putStream_mizBlocked (c : Core) (w : Strm) (st : Stream) : (putStream c w st).mizBlocked = c.mizBlocked := by cases w <;> rfl
@[simp] theorem putStream_mizAt (c : Core) (w : Strm) (st : Stream) : (putStream c w st).mizAt = c.mizAt := by cases w <;> rfl
@[simp] theorem putStream_swap (c : Core) (w : Strm) (st : Stream) : (putStream c w st).swap = c.swap := by cases w <;> rfl
@[simp] theorem putStream_lane (c : Core) (w : Strm) (st : Stream) : (putStream c w st).lane = c.lane := by cases w <;> rfl
@[simp] theorem putStream_quiet (c : Core) (w : Strm) (st : Stream) : (putStream c w st).quiet = c.quiet := by cases w <;> rfl
@[simp] theorem putStream_half (c : Core) (w : Strm) (st : Stream) : (putStream c w st).half = c.half := by cases w <;> rfl
@[simp] theorem putStream_power (c : Core) (w : Strm) (st : Stream) : (putStream c w st).power = c.power := by cases w <;> rfl
@[simp] theorem putStream_tlb (c : Core) (w : Strm) (st : Stream) : (putStream c w st).tlb = c.tlb := by cases w <;> rfl
@[simp] theorem putStream_undo (c : Core) (w : Strm) (st : Stream) : (putStream c w st).undo = c.undo := by cases w <;> rfl

/-! ### Cores and streams of the state -/

theorem State.core_setCore (s : State) (n m : Nat) (c : Core) :
    (s.setCore n c).core m = if m = n then c else s.core m := SMap.get_set _ _ _ _ _
@[simp] theorem State.core_setCore_same (s : State) (n : Nat) (c : Core) : (s.setCore n c).core n = c := SMap.get_set_same _ _ _ _
theorem State.core_setCore_ne (s : State) (n m : Nat) (c : Core) (h : m ≠ n) : (s.setCore n c).core m = s.core m :=
  SMap.get_set_ne _ _ _ _ _ h
@[simp] theorem State.setCore_setCore (s : State) (n : Nat) (a b : Core) : (s.setCore n a).setCore n b = s.setCore n b := by
  simp [State.setCore]
@[simp] theorem State.core_updCore_same (s : State) (n : Nat) (f : Core → Core) : (s.updCore n f).core n = f (s.core n) := by
  simp [State.updCore]
@[simp] theorem State.core_setFrame (s : State) (f : Frame) (n : Nat) : (s.setFrame f).core n = s.core n := rfl
@[simp] theorem State.stream_setFrame (s : State) (f : Frame) (r : SRef) : (s.setFrame f).stream r = s.stream r := rfl
@[simp] theorem State.core_post (s : State) (ty : Nat) (key : W32) (a0 a1 : W64) (n : Nat) :
    (s.post ty key a0 a1).core n = s.core n := rfl

@[simp] theorem State.stream_setStream_same (s : State) (r : SRef) (st : Stream) : (s.setStream r st).stream r = st := by
  simp [State.setStream, State.stream]
theorem State.stream_setStream (s : State) (r x : SRef) (st : Stream) :
    (s.setStream r st).stream x = if x = r then st else s.stream x := by
  obtain ⟨rc, rw⟩ := r; obtain ⟨xc, xw⟩ := x
  simp only [State.setStream, State.stream, State.core_setCore, SRef.mk.injEq]
  by_cases h : xc = rc
  · subst h; simp [streamOf_putStream]
  · simp [h]
@[simp] theorem State.setStream_setStream (s : State) (r : SRef) (a b : Stream) :
    (s.setStream r a).setStream r b = s.setStream r b := by simp [State.setStream]
@[simp] theorem State.stream_updStream_same (s : State) (r : SRef) (f : Stream → Stream) :
    (s.updStream r f).stream r = f (s.stream r) := by simp [State.updStream]
theorem State.stream_updStream (s : State) (r x : SRef) (f : Stream → Stream) :
    (s.updStream r f).stream x = if x = r then f (s.stream r) else s.stream x := by
  simp [State.updStream, State.stream_setStream]
/-- Two changes of one stream are one change. -/
@[simp] theorem State.updStream_updStream (s : State) (r : SRef) (f g : Stream → Stream) :
    (s.updStream r f).updStream r g = s.updStream r (fun st => g (f st)) := by
  simp [State.updStream]
theorem State.updRegs_eq (s : State) (r : SRef) (f : Regs → Regs) :
    s.updRegs r f = s.updStream r fun st => { st with regs := f st.regs } := rfl
@[simp] theorem State.updRegs_updRegs (s : State) (r : SRef) (f g : Regs → Regs) :
    (s.updRegs r f).updRegs r g = s.updRegs r (fun x => g (f x)) := by simp [State.updRegs]
@[simp] theorem State.me_updStream (s : State) (f : Stream → Stream) : (s.updStream s.cur f).me = f s.me := by
  simp [State.me]
@[simp] theorem State.me_updRegs (s : State) (f : Regs → Regs) :
    (s.updRegs s.cur f).me = { s.me with regs := f s.me.regs } := by simp [State.updRegs]

/-! ### Registers -/

/-- A 64-bit register after a write of one: only the register written changes. -/
theorem Regs.get_put (r : Regs) (f h : RFile) (n m : Nat) (v : W64) :
    (r.put f n v).get h m = if h = f ∧ m = n then
      (match f with | .k | .a | .x | .d | .m | .p | .c => v | _ => 0) else r.get h m := by
  cases f <;> cases h <;> simp [Regs.put, Regs.get, SMap.get_set]

/-- A guard after a write of one; g0 stays 1 (R63). -/
theorem Regs.guard_zero (r : Regs) : r.guard 0 = true := rfl
theorem Regs.setGuard_zero (r : Regs) (b : Bool) : r.setGuard 0 b = r := rfl

end Sys2Proof.Machine
end

