-- ==== Sys2Proof/Laws/Ops.lean ====
section
/-! SUPPORT. What the shared operations of the slots can do, said once. -/
namespace Sys2Proof.Machine

/-- Inside a bundle a slot waits for nothing (R66, R91). -/
theorem slotPrep_bundle {s : State} {i : Instr} (h : s.frame.view.isSome = true) : slotPrep s i = .go := by simp [slotPrep, h]

/-- What waits for nothing by itself does not wait inside a bundle either. -/
theorem slotPrep_go {s : State} {i : Instr} (h : Instr.prep s i = .go) : slotPrep s i = .go := by simp [slotPrep, h]

/-- The outcomes of a slot: it waits, asks for a checkpoint, freezes for want of room, has its effect, raises a trap, or is guarded off (R67, R71, R72,
R85, R286). -/
theorem slotRun_cases (i : Instr) (s : State) (eff off : State → State) (hc : s.cur.core < numCores) :
    (slotPrep s i = .stall ∧ slotRun i s eff off = .next s) ∨
    (slotPrep s i = .ckpt ∧ slotRun i s eff off = .next s.askCkpt) ∨
    (slotPrep s i = .room ∧ slotRun i s eff off = .next s.freezeHere) ∨
    (slotPrep s i = .go ∧ guardHolds s.src.regs i.guard = true ∧ lowest (issueTraps s [i]) = none ∧ slotRun i s eff off = .next (eff s)) ∨
    (slotPrep s i = .go ∧ guardHolds s.src.regs i.guard = true ∧
      ∃ t, lowest (issueTraps s [i]) = some t ∧ slotRun i s eff off = .next (s.raise s.cur t.1 t.2 s.src.regs.pc)) ∨
    (slotPrep s i = .go ∧ guardHolds s.src.regs i.guard = false ∧ slotRun i s eff off = .next (off s)) := by
  unfold slotRun
  rw [if_pos hc]
  rcases hp : slotPrep s i with _ | _ | _ | _
  · cases hg : guardHolds s.src.regs i.guard
    · simp
    · rcases hl : lowest (issueTraps s [i]) with _ | t <;> simp
  · simp
  · simp
  · simp

/-- A slot that runs has its effect. -/
theorem slotRun_of_runs {i : Instr} {s : State} (h : Runs i s) (eff off : State → State) :
    slotRun i s eff off = .next (eff s) := by
  obtain ⟨hc, hp, hg, hl⟩ := h
  simp [slotRun, hc, slotPrep_go hp, hg, hl]

theorem runSlot_of_runs {i : Instr} {s : State} (h : Runs i s) (eff : State → State) : runSlot i s eff = .next (eff s) :=
  slotRun_of_runs h eff id

/-- An engine slot that runs issues its operation and sets its hold (R74, R166). -/
theorem engSlot_of_runs {k : Slot} {h : Eh} {i : Instr} {s : State} (hr : Runs i s) :
    engSlot k h i s = .next (armHold s.frame.lit k h i (issueOp s.frame.lit k h i s)) := slotRun_of_runs hr _ _

/-! ### Slots that only compute on registers -/

theorem gId_any (n : BitVec 4) (p : RegId → Bool) : (gId n).any p = (n != 0 && p ⟨.g, n.toNat, none⟩) := by
  unfold gId; split <;> simp_all
theorem marked_any (f : RFile) (x : Src) (p : RegId → Bool) : (x.marked f).any p = (x.mark && p (x.reg f)) := by
  unfold Src.marked; split <;> simp_all
theorem reg_file (f : RFile) (x : Src) : (x.reg f).file = if flag x.op 7 then .c else f := by
  unfold Src.reg; split <;> rfl
theorem file_ite (c : Bool) (f h : RFile) (hf : f ≠ h) (hc : RFile.c ≠ h) :
    ((if c then RFile.c else f) == h) = false := by cases c <;> simp [hf, hc]
theorem marked_narrow (f : RFile) (x : Src) (hv : f ≠ .v) (hq : f ≠ .q) :
    (x.marked f).filter (fun r => r.file == .v || r.file == .q) = [] := by
  unfold Src.marked
  split
  · simp [reg_file, file_ite, hv, hq]
  · rfl

/-- A slot with no trap of its own that writes no v or q register and no scratchpad byte runs where its stream is steady. -/
theorem runs_of_no_trap {i : Instr} {s : State} (hs : Steady s) (hg : guardHolds s.src.regs i.guard = true)
    (hp : Instr.prep s i = .go) (ht : slotTraps s i = []) (hw : wideWrites s [i] = []) (hb : withheldWrites s [i] = []) :
    Runs i s := by
  refine ⟨hs.1, hp, hg, ?_⟩
  have : ¬ 1024 < lineCount s.me.withheld := by have := hs.2; omega
  simp [issueTraps, ht, fatalTrap, hw, hb, lowest, this]

/-! ### Slots that store -/

theorem length_set_le {α : Type} [DecidableEq α] (m : SMap α) (k : Nat) (v d : α) :
    (SMap.set m k v d).length ≤ List.length m + 1 := by
  have he : (SMap.erase m k).length ≤ List.length m := List.length_filter_le _ _
  have hp : ∀ l : SMap α, (SMap.place l k v).length = List.length l + 1 := by
    intro l
    induction l with
    | nil => rfl
    | cons p t ih =>
      simp only [SMap.place]
      split
      · rfl
      · exact congrArg (· + 1) ih
  unfold SMap.set
  split
  · omega
  · rw [hp]; omega

theorem length_withhold_le (bs : List Byte) : ∀ (wh : SMap (Option Byte)) (a : Nat),
    (withhold wh a bs).length ≤ List.length wh + bs.length := by
  induction bs with
  | nil => intro wh a; exact Nat.le_refl _
  | cons b t ih =>
    intro wh a
    have h1 := ih (wh.set a (some b) none) (a + 1)
    have h2 := length_set_le wh a (some b) none
    simp only [withhold, List.length_cons]
    omega

theorem lineCount_le_length : ∀ m : SMap (Option Byte), lineCount m ≤ List.length m
  | [] => Nat.le_refl _
  | [_] => Nat.le_refl _
  | (a, _) :: (b, y) :: t => by
    have := lineCount_le_length ((b, y) :: t)
    simp only [lineCount, List.length_cons] at *
    split <;> omega

theorem lineCount_fold_le (l : List (Nat × Nat × Bool)) : ∀ wh : SMap (Option Byte),
    lineCount (l.foldl (fun w r => withhold w r.1 (List.replicate r.2.1 0)) wh) ≤
      List.length wh + (l.map fun r => r.2.1).sum := by
  suffices h : ∀ wh : SMap (Option Byte),
      (l.foldl (fun w r => withhold w r.1 (List.replicate r.2.1 0)) wh).length ≤ List.length wh + (l.map fun r => r.2.1).sum from
    fun wh => Nat.le_trans (lineCount_le_length _) (h wh)
  induction l with
  | nil => intro wh; exact Nat.le_refl _
  | cons r t ih =>
    intro wh
    have h1 := ih (withhold wh r.1 (List.replicate r.2.1 0))
    have h2 := length_withhold_le (List.replicate r.2.1 0) wh r.1
    simp only [List.foldl_cons, List.map_cons, List.sum_cons, List.length_replicate] at *
    omega

/-- Lines from the first key on: a canonical buffer with all keys from 64 × lo to below 64 × hi holds at most hi − lo lines. -/
theorem lineCount_le_span : ∀ (m : SMap (Option Byte)) (lo hi : Nat), SMap.canon none m = true →
    (∀ p ∈ m, 64 * lo ≤ p.1 ∧ p.1 < 64 * hi) → lineCount m ≤ hi - lo
  | [], _, _, _, _ => Nat.zero_le _
  | [q], lo, hi, _, hb => by
    have := hb q (.head _)
    simp only [lineCount]; omega
  | (a, x) :: (b, y) :: t, lo, hi, hc, hb => by
    have ht := ((SMap.canon_cons none a x ((b, y) :: t)).1 hc)
    have hab : a < b := ht.2.1 (b, y) (.head _)
    have ha := hb (a, x) (.head _)
    have rise : ∀ p ∈ (b, y) :: t, b ≤ p.1 := by
      have hcb := (SMap.canon_cons none b y t).1 ht.2.2
      intro p hp
      cases hp with
      | head => exact Nat.le_refl _
      | tail _ h => exact Nat.le_of_lt (hcb.2.1 p h)
    have ih := lineCount_le_span ((b, y) :: t) (b / 64) hi ht.2.2 fun p hp =>
      ⟨Nat.le_trans (Nat.mul_div_le b 64) (rise p hp), (hb p (.tail _ hp)).2⟩
    simp only at ha
    have hbhi := (hb (b, y) (.tail _ (.head _))).2
    simp only at hbhi
    simp only [lineCount]
    split <;> omega

/-- Withholding keeps the canonical form and adds no key outside its bytes. -/
theorem withhold_canon (bs : List Byte) : ∀ (wh : SMap (Option Byte)) (a hi : Nat), SMap.canon none wh = true →
    (∀ p ∈ wh, p.1 < hi) → a + bs.length ≤ hi →
    SMap.canon none (withhold wh a bs) = true ∧ ∀ p ∈ withhold wh a bs, p.1 < hi := by
  induction bs with
  | nil => exact fun _ _ _ h hb _ => ⟨h, hb⟩
  | cons b t ih =>
    intro wh a hi h hb hl
    rw [List.length_cons] at hl
    refine ih _ _ hi (SMap.canon_set none wh a (some b) h) ?_ (by omega)
    intro p hp
    unfold SMap.set at hp
    rw [if_neg (by simp)] at hp
    rcases SMap.mem_place _ _ _ _ hp with rfl | hp
    · simp only; omega
    · exact hb p (List.mem_filter.1 hp).1

/-- Rows withheld one after the other below 64 × n fill at most n lines. -/
theorem lineCount_rows_le (row len : Nat → Nat) (n : Nat) (l : List Nat) : ∀ wh : SMap (Option Byte), SMap.canon none wh = true →
    (∀ p ∈ wh, p.1 < 64 * n) → (∀ i ∈ l, row i + len i ≤ 64 * n) →
    lineCount (l.foldl (fun w i => withhold w (row i) (List.replicate (len i) 0)) wh) ≤ n := by
  induction l with
  | nil => exact fun wh h hb _ => by simpa using lineCount_le_span wh 0 n h fun p hp => ⟨by omega, hb p hp⟩
  | cons i t ih =>
    intro wh h hb hl
    have := withhold_canon (List.replicate (len i) 0) wh (row i) (64 * n) h hb (by simpa using hl i (.head _))
    exact ih _ this.1 this.2 fun j hj => hl j (.tail _ hj)

/-- A storing slot with no trap of its own that fills at most 1024 bytes of the withholding buffer runs. -/
theorem runs_of_small_store {i : Instr} {s : State} (hc : s.cur.core < numCores) (hg : guardHolds s.src.regs i.guard = true)
    (hp : Instr.prep s i = .go) (ht : slotTraps s i = []) (hw : wideWrites s [i] = [])
    (hb : List.length s.me.withheld + ((withheldWrites s [i]).map fun r => r.2.1).sum ≤ 1024) : Runs i s := by
  refine ⟨hc, hp, hg, ?_⟩
  have : ¬ 1024 < lineCount ((withheldWrites s [i]).foldl (fun w r => withhold w r.1 (List.replicate r.2.1 0)) s.me.withheld) := by
    have := lineCount_fold_le (withheldWrites s [i]) s.me.withheld
    omega
  simp only [issueTraps, List.map_cons, List.map_nil, ht, fatalTrap, hw, List.filter_cons, List.filter_nil, List.isEmpty_nil,
    if_true, List.flatten_cons, List.flatten_nil, List.append_nil, List.nil_append, if_neg this]
  simp [lowest]

/-- The forms of the A slot that access no scratchpad byte, XFR apart. -/
def isAlu : Instr → Bool
  | .add .. | .addi .. | .and .. | .clz .. | .cmp .. | .div .. | .gand .. | .gnot .. | .gor .. | .max .. | .min .. | .movi ..
  | .mul .. | .mulh .. | .or .. | .popc .. | .rem .. | .sel .. | .shl .. | .shr .. | .sra .. | .sub .. | .xor .. => true
  | _ => false

theorem alu_prep {i : Instr} {s : State} (ha : isAlu i = true) : Instr.prep s i = .go := by
  cases i <;> simp only [isAlu, Bool.false_eq_true] at ha <;>
  simp [Instr.prep, prepOn, Instr.reads, Instr.writes, Instr.srcs, Instr.vsrcs, Instr.vdest, Instr.engReads, gId_any, marked_any,
    reg_file, file_ite, Instr.vregs, Instr.lregs, waitTokens, Instr.lct, commitsFirst, slotAccesses, Instr.eh, Instr.slot, Prep.join]

theorem alu_traps {i : Instr} {s : State} (ha : isAlu i = true) : slotTraps s i = [] := by
  have hsp : spadTrap s i = [] := by
    unfold spadTrap
    have h1 : spadFail s i = none := by cases i <;> simp only [isAlu, Bool.false_eq_true] at ha <;> rfl
    have h2 : setAccesses s i = [] := by cases i <;> simp only [isAlu, Bool.false_eq_true] at ha <;> rfl
    rw [h1, h2]
    cases s.src.regs.phase.sets <;> simp
  unfold slotTraps
  rw [hsp]
  cases i <;> simp only [isAlu, Bool.false_eq_true] at ha <;>
  simp [detTrap, allotTrap, Instr.vregs, Instr.vdest, Instr.vsrcs, Instr.lregs, Instr.tile, valueTrap, loopTrap, waitTrap,
    waitTokens, Instr.lct]

theorem alu_wide {i : Instr} {s : State} (ha : isAlu i = true) : wideWrites s [i] = [] := by
  have h : i.writes.filter (fun r => r.file == .v || r.file == .q) = [] := by
    cases i <;> simp only [isAlu, Bool.false_eq_true] at ha <;>
    simp [Instr.writes, Instr.srcs, Instr.vsrcs, Instr.vdest, marked_narrow, gId]
  unfold wideWrites
  by_cases hg : guardHolds s.src.regs i.guard = true <;> simp [hg, h]

/-- Such a form waits for nothing and raises no trap (R67, R286). -/
theorem alu_runs {i : Instr} {s : State} (ha : isAlu i = true) (hs : Steady s) (hg : guardHolds s.src.regs i.guard = true) :
    Runs i s :=
  runs_of_no_trap hs hg (alu_prep ha) (alu_traps ha) (alu_wide ha)
    (by cases i <;> simp only [isAlu, Bool.false_eq_true] at ha <;> simp [withheldWrites])

/-! ### Commits, places, runs of graphs, parts -/

theorem atCkpt_iff (st : Stream) : st.atCkpt = true ↔ AtCommit st := by
  unfold Stream.atCkpt AtCommit Stream.mpx
  cases h : st.ckptAt <;> simp [List.isEmpty_iff, and_assoc]

@[simp] theorem updPlace_live (s : State) (r : SRef) (f : Stream → Stream) : s.updPlace (.live r) f = s.updStream r f := rfl
@[simp] theorem updPlace_saved_stream (s : State) (n : Nat) (f : Stream → Stream) (r : SRef) :
    (s.updPlace (.saved n) f).stream r = s.stream r := rfl
@[simp] theorem updPlace_saved_mem (s : State) (n : Nat) (f : Stream → Stream) : (s.updPlace (.saved n) f).mem = s.mem := rfl

theorem updPlace_saved_saved (s : State) (n : Nat) (f : Stream → Stream) (k : Nat) :
    (s.updPlace (.saved n) f).saved[k]? = if k = n then (s.saved[k]?).map (fun i => { i with st := f i.st }) else s.saved[k]? := by
  simp only [State.updPlace, List.getElem?_modify]
  by_cases h : n = k
  · subst h; simp
  · simp [h, Ne.symm h]

/-- What `markDue` changes: recovery records alone. -/
theorem markDue_eq (s : State) (ctxs : List Nat) (far : Bool) : ∃ v, s.markDue ctxs far = { s with recov := v } := by
  have go : ∀ (l : List Nat) (s : State),
      ∃ v, l.foldl (fun s c => if s.logged c then s.setRec c { s.recOf c with due := true } else s) s = { s with recov := v } := by
    intro l
    induction l with
    | nil => exact fun s => ⟨s.recov, rfl⟩
    | cons c l ih =>
      intro s
      rw [List.foldl_cons]
      split
      · obtain ⟨v, h⟩ := ih (s.setRec c { s.recOf c with due := true })
        exact ⟨v, h.trans rfl⟩
      · exact ih s
  unfold State.markDue
  split
  · exact go _ s
  · exact ⟨s.recov, rfl⟩

@[simp] theorem noRoom_cores (s : State) (ctx egr : Nat) : (s.noRoom ctx egr).cores = s.cores := rfl
@[simp] theorem noRoom_mem (s : State) (ctx egr : Nat) : (s.noRoom ctx egr).mem = s.mem := rfl
@[simp] theorem noRoom_egress (s : State) (ctx egr : Nat) : (s.noRoom ctx egr).egress = s.egress := rfl

@[simp] theorem runAt_putRun (g : Graph) (u : GRun) : (g.putRun none u).runAt none = some (u, g.nodes) := rfl
@[simp] theorem putRun_left (g : Graph) (u : GRun) : (g.putRun none u).left = g.left := rfl

/-- The run in progress goes before those that have ended. -/
theorem findRun_first {g : Graph} {u : GRun} {p : GRun → Bool} (h : g.run = some u) (hp : p u = true) : g.findRun p = some none := by
  simp [Graph.findRun, Graph.runAt, h, hp]

@[simp] theorem only_nil (o : Op) (spad : SMap Byte) : o.only spad [] = o := rfl
@[simp] theorem cutParts_nil (p : Nat × Nat) : cutParts [] p = [p] := rfl

end Sys2Proof.Machine
end

