-- ==== Sys2Proof/Tests/Slice0.lean ====
section
/-! SUPPORT. Tests. Expected words are the worked encodings of the instruction reference (chapters 20 to 22 and 5 of spec/), or field
sums by the tables of R97 to R109; expected results are the manual's worked values or hand calculation from its rules. -/
namespace Sys2Proof.Tests

open Sys2Proof.Machine

set_option Elab.async false

/-! ### Decoding -/

/-- No guard. -/
def g0 : Gd := ⟨false, 0⟩

/-- Engine fields: PT and the consumed tokens. -/
def eh (pt ct0 ct1 ct2 : BitVec 6) : Eh := ⟨g0, false, pt, ct0, ct1, ct2⟩

/-- An unmarked operand. -/
def r (n : BitVec 8) : Src := ⟨false, n⟩

/-- An unmarked v operand. -/
def v (n : BitVec 10) : VSrc := ⟨false, n⟩

/-- A word from its fields: low bit and value of each. -/
def fields (l : List (Nat × Nat)) : Nat := (l.map fun p => p.2 * 2 ^ p.1).sum

/-- The one slot that a bundle of header PRES = `pres` (R92) and slot word `w` is read to. -/
def dec (pres w : Nat) : Option Instr := decodeTableWord 64 (pres + 2 ^ 16 * w)

/-- What a slot word is read to. -/
def slotOf (k : Slot) (w : W48) : Option Instr := match decodeSlot k w with | .ok i => some i | .error _ => none

/-- The subcode with which a slot word is rejected (R111). -/
def subcode (k : Slot) (w : W48) : Option Nat := match decodeSlot k w with | .ok _ => none | .error e => some e.subcode

/-- The subcode with which the bundle of these bytes is rejected. -/
def bundleSubcode (size : Nat) (bs : List Byte) : Option Nat := match decodeBundle size bs with | .ok _ => none | .error e => some e.subcode

/-- R100: forms of the K slot. -/
theorem test_decode_k :
    dec 0x0101 0x08100000000B = some (.br ⟨false, 1⟩ 0xB) ∧
    dec 0x0101 0x002000000012 = some (.brk g0 0x12) ∧
    dec 0x0101 0x003018000000 = some (.brx g0 (r 3)) ∧
    dec 0x0101 0x004F00000000 = some (.call g0 15 0) ∧
    dec 0x0101 0x005000000622 = some (.fmt g0 (.imm 0x622)) ∧
    dec 0x0101 (fields [(36, 0x05), (35, 1), (0, 7)]) = some (.fmt g0 (.reg (r 7))) ∧
    dec 0x0101 0x006000000000 = some (.halt g0) ∧
    dec 0x0101 0x007000000000 = some (.leave g0) ∧
    dec 0x0101 0x008000012345 = some (.lit 0x12345) ∧
    dec 0x0101 0x00900028003C = some (.loop g0 (.imm 5) 0x3C) ∧
    dec 0x0101 0x00980400001A = some (.loop g0 (.reg (r 1)) 0x1A) ∧
    dec 0x0101 0x00A100000040 = some (.mfs g0 1 0x40) ∧
    dec 0x0101 0x00B010000005 = some (.mts g0 (r 2) 5) ∧
    dec 0x0101 0x00C000000007 = some (.opp g0 (.imm 7)) ∧
    dec 0x0101 0x00D000000800 = some (.phase g0 (.imm 0x800)) ∧
    dec 0x0101 0x00E000000003 = some (.rcm g0 (.imm 3)) ∧
    dec 0x0101 0x00F078000000 = some (.ret g0 (r 15)) ∧
    dec 0x0101 0x010200000001 = some (.stat g0 2 1) ∧
    dec 0x0101 0x012146000000 = some (.wait g0 5 6 0 0) := by decide

/-- R87, R100: SVC stands in a bundle with CKPT. -/
theorem test_decode_svc :
    dec 0x0301 0x01100000FFFF = some (.svc g0 0xFFFF) := by decide

/-- R101: forms of the A slot, ADD to MOVI. -/
theorem test_decode_a_first :
    dec 0x0102 0x0010C02A5000 = some (.add g0 3 (r 1) (r 0xA5) false) ∧
    dec 0x0102 0x002040200004 = some (.addi g0 1 (r 1) false 4) ∧
    dec 0x0102 0x003140B09800 = some (.and g0 5 (r 5) ⟨true, 9⟩ true) ∧
    dec 0x0102 0x004141200800 = some (.clz g0 5 (r 9) true) ∧
    dec 0x0102 0x005103004800 = some (.cmp g0 1 (r 6) (r 1) 1 false) ∧
    dec 0x0102 0x006100202400 = some (.div g0 4 (r 1) (r 2) false true) ∧
    dec 0x0102 (fields [(36, 0x07), (32, 4), (31, 1), (27, 2), (22, 7)]) = some (.gand g0 4 true 2 false 7) ∧
    dec 0x0102 0x008228000000 = some (.gnot g0 2 false 5) ∧
    dec 0x0102 0x00930C800000 = some (.gor g0 3 false 1 true 2) ∧
    dec 0x0102 0x00A100340000 = some (.ld g0 4 (r 1) 2 true 0) ∧
    dec 0x0102 0x00B100202400 = some (.max g0 4 (r 1) (r 2) false true) ∧
    dec 0x0102 0x00C140A06800 = some (.min g0 5 (r 5) (r 6) true false) ∧
    dec 0x0102 0x00D25F000000 = some (.movi g0 9 false 0x1F000000) := by decide

/-- R101: forms of the A slot, MUL to XOR. -/
theorem test_decode_a_rest :
    dec 0x0102 0x00E0C0202000 = some (.mul g0 3 (r 1) (r 2) false) ∧
    dec 0x0102 0x00F180202400 = some (.mulh g0 6 (r 1) (r 2) false true) ∧
    dec 0x0102 0x010341A0F000 = some (.or g0 13 (r 13) (r 15) false) ∧
    dec 0x0102 0x011080E00000 = some (.popc g0 2 (r 7) false) ∧
    dec 0x0102 0x012140202400 = some (.rem g0 5 (r 1) (r 2) false true) ∧
    dec 0x0102 0x013106010100 = some (.sel g0 4 false 3 (r 1) (r 2)) ∧
    dec 0x0102 0x0142C140C000 = some (.shl g0 11 (r 10) (r 12) false) ∧
    dec 0x0102 (fields [(36, 0x15), (30, 11), (21, 10), (12, 12)]) = some (.shr g0 11 (r 10) (r 12) false) ∧
    dec 0x0102 (fields [(36, 0x16), (30, 11), (21, 10), (12, 12), (11, 1)]) = some (.sra g0 11 (r 10) (r 12) true) ∧
    dec 0x0102 0x0170180A0080 = some (.st g0 (r 3) (r 2) 2 0x80) ∧
    dec 0x0102 0x018140202000 = some (.sub g0 5 (r 1) (r 2) false) ∧
    dec 0x0102 0x019400040200 = some (.xfr g0 4 0 1 2 false 0) ∧
    dec 0x0102 0x019101180300 = some (.xfr g0 1 4 6 3 false 0) ∧
    dec 0x0102 0x019801440180 = some (.xfr g0 8 5 1 1 true 0) ∧
    dec 0x0102 0x01A100805000 = some (.xor g0 4 (r 4) (r 5) false) := by decide

/-- R102: forms of the V slot, VABS to VMAX. -/
theorem test_decode_v_first :
    dec 0x0104 (fields [(36, 0x01), (26, 5), (15, 6), (1, 2)]) = some (.vabs g0 5 (v 6) 2) ∧
    dec 0x0104 (fields [(36, 0x02), (26, 4), (15, 1), (4, 2)]) = some (.vadd g0 4 (v 1) (v 2) 0) ∧
    dec 0x0104 (fields [(36, 0x03), (26, 4), (15, 1), (4, 2)]) = some (.vand g0 4 (v 1) (v 2) 0) ∧
    dec 0x0104 0x0040158E0000 = some (.vbcast g0 5 (.com 0xC7)) ∧
    dec 0x0104 0x00401600FFFF = some (.vbcast g0 5 (.imm false 0xFFFF)) ∧
    dec 0x0104 (fields [(36, 0x05), (26, 4), (15, 1), (4, 2), (1, 1)]) = some (.vclamp g0 4 (v 1) (v 2) 1) ∧
    dec 0x0104 0x006200C02240 = some (.vcmp g0 1 (v 3) (v 4) 2 2) ∧
    dec 0x0104 0x007025001800 = some (.vcompact g0 9 2 false (v 3)) ∧
    dec 0x0104 0x008018013200 = some (.vcvt g0 6 (v 2) 6 4) ∧
    dec 0x0104 (fields [(36, 0x09), (26, 5), (15, 6), (1, 2)]) = some (.vexp2 g0 5 (v 6) 2) ∧
    dec 0x0104 0x00A020008024 = some (.vfma g0 8 (v 1) (v 2) 2) ∧
    dec 0x0104 (fields [(36, 0x0B), (26, 639), (15, 1), (4, 2), (1, 2)]) = some (.vmax g0 639 (v 1) (v 2) 2) := by decide

/-- R102: forms of the V slot, VMIN to VXOR. -/
theorem test_decode_v_rest :
    dec 0x0104 (fields [(36, 0x0C), (26, 4), (25, 1), (15, 1), (4, 2)]) = some (.vmin g0 4 ⟨true, 1⟩ (v 2) 0) ∧
    dec 0x0104 (fields [(36, 0x0D), (26, 4), (15, 1)]) = some (.vmov g0 4 (v 1) 0) ∧
    dec 0x0104 (fields [(36, 0x0E), (26, 4), (15, 1), (4, 2)]) = some (.vmul g0 4 (v 1) (v 2) 0) ∧
    dec 0x0104 (fields [(36, 0x0F), (26, 4), (15, 1), (4, 2)]) = some (.vor g0 4 (v 1) (v 2) 0) ∧
    dec 0x0104 0x010030018040 = some (.vperm g0 12 (v 3) (v 4) 0) ∧
    dec 0x0104 0x011014030004 = some (.vrcp g0 5 (v 6) 2) ∧
    dec 0x0104 0x012028010400 = some (.vred g0 10 (v 2) 0 2) ∧
    dec 0x0104 (fields [(36, 0x13), (26, 5), (15, 6), (1, 2)]) = some (.vrsq g0 5 (v 6) 2) ∧
    dec 0x0104 0x01402C011000 = some (.vscan g0 11 (v 2) 1 0) ∧
    dec 0x0104 0x015024C01804 = some (.vsel g0 9 1 true (v 3) (v 4)) ∧
    dec 0x0104 (fields [(36, 0x16), (26, 4), (15, 1), (4, 2)]) = some (.vshl g0 4 (v 1) (v 2) 0) ∧
    dec 0x0104 0x01703406C0E2 = some (.vshr g0 13 (v 13) ⟨true, 14⟩ 1) ∧
    dec 0x0104 (fields [(36, 0x18), (26, 4), (15, 1), (4, 2)]) = some (.vsub g0 4 (v 1) (v 2) 0) ∧
    dec 0x0104 (fields [(36, 0x19), (26, 4), (15, 1), (4, 2)]) = some (.vxor g0 4 (v 1) (v 2) 0) := by decide

/-- R103: forms of the L slot. -/
theorem test_decode_l :
    dec 0x0108 0x0010120C5030 = some (.aadd g0 4 0x83 5 12 0) ∧
    dec 0x0108 (fields [(36, 0x02), (26, 4), (18, 0x83), (12, 5), (2, 12), (0, 1)]) = some (.aaddf g0 4 0x83 5 12 1) ∧
    dec 0x0108 (fields [(36, 0x03), (26, 4), (18, 0x83), (12, 5), (2, 12), (0, 1)]) = some (.acas g0 4 0x83 5 12 1) ∧
    dec 0x0108 (fields [(36, 0x04), (26, 4), (12, 5), (2, 12)]) = some (.aswap g0 4 0 5 12 0) ∧
    dec 0x0108 0x005050000000 = some (.tagi g0 20 0) ∧
    dec 0x0108 0x006050150C00 = some (.tagl g0 20 21 3) ∧
    dec 0x0108 0x007050150000 = some (.tagw g0 20 21 0) ∧
    dec 0x0108 0x00801E880001 = some (.vld g0 7 0xA2 0 1) ∧
    dec 0x0108 (fields [(36, 0x09), (26, 7), (18, 0xA2), (12, 3), (0, 0x7FF)]) = some (.vlde g0 7 0xA2 3 0x7FF) ∧
    dec 0x0108 0x00A07A0C2030 = some (.vldx g0 30 0x83 2 12 false) ∧
    dec 0x0108 (fields [(36, 0x0B), (26, 7), (11, 1), (0, 0x40)]) = some (.vst g0 7 0 0 true 0x40) ∧
    dec 0x0108 (fields [(36, 0x0C), (26, 7), (18, 0x83), (2, 12), (1, 1), (0, 1)]) = some (.vstx g0 7 0x83 0 12 true true) := by decide

/-- R104: forms of the M, P and X slots. -/
theorem test_decode_mpx :
    dec 0x0110 0x0010408002C0 = some (.manch (eh 2 1 0 0) 1 6) ∧
    dec 0x0110 0x0021448002C0 = some (.mdrain (eh 10 9 0 0) 1 6) ∧
    dec 0x0110 0x003040800006 = some (.mma (eh 2 1 0 0) 0 0 3) ∧
    dec 0x0110 (fields [(36, 0x04), (35, 1), (29, 2), (9, 3), (6, 5), (3, 7), (1, 3)]) = some (.mmas ⟨g0, true, 2, 0, 0, 0⟩ 3 5 7 3) ∧
    dec 0x0110 0x0050200000C0 = some (.mzero (eh 1 0 0 0) 0 6) ∧
    dec 0x0120 0x0010C2800180 = some (.pcheck (eh 6 5 0 0) 3) ∧
    dec 0x0120 0x0020C2000064 = some (.pdot (eh 6 4 0 0) 0 3 2) ∧
    dec 0x0120 0x003020000080 = some (.pgrp (eh 1 0 0 0) 1) ∧
    dec 0x0120 0x0040A0000190 = some (.pscan (eh 5 0 0 0) 3 2) ∧
    dec 0x0120 0x0050A0000180 = some (.pscore (eh 5 0 0 0) 3) ∧
    dec 0x0140 0x001080000608 = some (.xget (eh 4 0 0 0) 24 2) ∧
    dec 0x0140 0x0020000006A2 = some (.xmv (eh 0 0 0 0) 26 (.reg 2)) ∧
    dec 0x0140 (fields [(36, 0x02), (6, 17), (0, 8)]) = some (.xmv (eh 0 0 0 0) 17 (.port 8)) ∧
    dec 0x0140 0x0030600007C0 = some (.xmvi (eh 3 0 0 0) 31 false 0) := by decide

/-- R104: forms of the D slot. -/
theorem test_decode_d :
    dec 0x0180 0x001080000184 = some (.atomm (eh 4 0 0 0) 6 1) ∧
    dec 0x0180 0x0020400002AC = some (.atomr (eh 2 0 0 0) 10 11) ∧
    dec 0x0180 0x003060000000 = some (.cbar (eh 3 0 0 0)) ∧
    dec 0x0180 0x004060000189 = some (.cpy (eh 3 0 0 0) 6 2 1) ∧
    dec 0x0180 (fields [(36, 0x05), (29, 3), (6, 6), (2, 15), (0, 2)]) = some (.cpyg (eh 3 0 0 0) 6 15 2) ∧
    dec 0x0180 (fields [(36, 0x06), (29, 3), (6, 6)]) = some (.cpys (eh 3 0 0 0) 6 0 0) ∧
    dec 0x0180 (fields [(36, 0x07), (29, 3), (6, 6)]) = some (.cpyx (eh 3 0 0 0) 6 0 0) ∧
    dec 0x0180 0x0080C0000204 = some (.cred (eh 6 0 0 0) 8 1) ∧
    dec 0x0180 0x009040000380 = some (.fence (eh 2 0 0 0) 3 true) ∧
    dec 0x0180 0x00A020000100 = some (.gdone (eh 1 0 0 0) 4) ∧
    dec 0x0180 0x00B020000100 = some (.gtrig (eh 1 0 0 0) 4) ∧
    dec 0x0180 0x00C020000100 = some (.notify (eh 1 0 0 0) 4) ∧
    dec 0x0180 0x00D120841800 = some (.tokj (eh 9 1 2 3)) := by decide

/-- R102, R105, R111: VBCAST that takes a literal; alone in its bundle it is subcode 7. -/
theorem test_decode_literal_taker :
    slotOf .V 0x004016010000 = some (.vbcast g0 5 (.imm true 0)) ∧ dec 0x0104 0x004016010000 = none := by decide

/-! ### Checks that reject -/

/-- A bundle without flags. -/
def bare (l : List Instr) : Bundle := ⟨⟨0, false, false, false⟩, l⟩

/-- R99: a mark on a commons operand; a register beyond its file; a base that is no commons operand; a v register from 640. -/
theorem test_operand_checks_reject :
    (Instr.add g0 1 ⟨true, 0x85⟩ (r 1) false).wf = false ∧ (Instr.add g0 1 (r 64) (r 1) false).wf = false ∧
    (Instr.brx g0 (r 16)).wf = false ∧ (Instr.vld g0 7 0x12 0 1).wf = false ∧ (Instr.vmov g0 640 (v 1) 0).wf = false ∧
    (Instr.vmov g0 1 (v 640) 0).wf = false ∧ (Instr.vmov g0 639 (v 639) 0).wf = true := by decide

/-- R101, R103, R104, R106, R107, R108: values that a form does not take. -/
theorem test_field_checks_reject :
    (Instr.vcvt g0 6 (v 2) 8 4).wf = false ∧ (Instr.fmt g0 (.imm 0x0006)).wf = false ∧
    (Instr.xmv (eh 0 0 0 0) 5 (.reg 2)).wf = false ∧ (Instr.xmv (eh 0 0 0 0) 26 (.reg 16)).wf = false ∧
    (Instr.atomm (eh 0 0 0 0) 5 1).wf = false ∧ (Instr.mfs g0 1 0x1C).wf = false ∧ (Instr.mts g0 (r 2) 0).wf = false ∧
    (Instr.xfr g0 9 0 1 2 false 0).wf = false ∧ (Instr.xfr g0 1 0 1 2 false 1).wf = false ∧
    (Instr.ld g0 4 (r 1) 3 true 0).wf = false ∧ (Instr.cmp g0 1 (r 6) (r 1) 6 false).wf = false ∧
    (Instr.mmas (eh 0 0 0 0) 0 0 0 0).wf = false ∧ (Instr.cpy (eh 0 0 0 0) 6 0 3).wf = false ∧
    (Instr.fence (eh 0 0 0 0) 6 false).wf = false ∧ (Instr.cred (eh 0 0 0 0) 8 2).wf = false ∧
    (Instr.acas g0 5 0 0 1 0).wf = false ∧ (Instr.vand g0 1 (v 1) (v 2) 1).wf = false := by decide

/-- R64, R70, R73, R87, R92, R95, R100, R111: what a bundle as a whole may not be. -/
theorem test_bundle_checks_reject :
    (bare [.loop g0 (.imm 5) 4]).wf 8 = false ∧ (bare [.loop g0 (.imm 5) 5]).wf 8 = true ∧
    (bare [.add g0 1 (r 0xE0) (r 1) false]).wf 8 = false ∧ (bare [.add g0 1 (r 0xA5) (r 0xA6) false]).wf 8 = false ∧
    (bare [.addi g0 1 (r 1) true 0]).wf 8 = false ∧ (bare [.lit 5, .addi g0 1 (r 1) true 0]).wf 14 = true ∧
    (bare [.svc g0 5]).wf 8 = false ∧ (bare [.vmov g0 4 (v 1) 0, .vld g0 4 0 0 0]).wf 14 = false ∧
    (bare [.vmov g0 4 (v 1) 0, .add g0 1 (r 1) (r 2) false]).wf 14 = false ∧ (Bundle.wf 2 ⟨⟨31, false, false, true⟩, []⟩) = false := by
  decide

/-- R110, R111: the subcodes of rejected words: an unassigned opcode, a Res bit, SG where it must be 0, a guard on LIT. -/
theorem test_slot_subcodes :
    subcode .K 0 = some 3 ∧ subcode .X 0x004000000000 = some 3 ∧ subcode .A 0x0010C02A5001 = some 4 ∧
    subcode .A 0x0010C02A5400 = some 5 ∧ subcode .K 0x088000012345 = some 5 ∧ subcode .A 0x0010C02A5000 = none := by decide

/-- R95, R111: the subcodes of rejected bundles: a bundle beyond its line, a fill header with STOP, port 3 of the commons, a second writer of v4. -/
theorem test_bundle_subcodes :
    bundleSubcode 8 [0x01, 0x01, 0, 0] = some 1 ∧ bundleSubcode 2 [0x00, 0xF9] = some 2 ∧
    bundleSubcode 8 [0x01, 0x01, 0, 0, 0, 0, 0, 0] = some 3 ∧ bundleSubcode 8 ([0x02, 0x01] ++ leBytes 6 0x0010C02A5400) = some 5 ∧
    bundleSubcode 8 ([0x02, 0x01] ++ leBytes 6 0x0010C02E5000) = some 6 ∧
    bundleSubcode 14 ([0x0C, 0x01] ++ leBytes 6 (fields [(36, 0x0D), (26, 4), (15, 1)]) ++ leBytes 6 0x008010000000) = some 9 := by decide

/-! ### Single steps -/

/-- Main of core 0, launched and running, everything else as at reset. -/
def base : State := State.reset.withFetchWord 64 0

/-- `base` with registers of a file set. -/
def withRegs (f : RFile) (l : List (Nat × W64)) : State := base.updRegs base.cur fun x => l.foldl (fun x p => x.put f p.1 p.2) x

/-- `base` with v registers whose lanes 0 and 1 hold two words. -/
def withLanes (l : List (Nat × W32 × W32)) : State :=
  base.updCore 0 fun c => { c with v := l.foldl (fun m p => m.set p.1 (BitVec.ofNat 8192 (p.2.1.toNat + 2 ^ 32 * p.2.2.toNat)) 0) c.v }

/-- The instruction answers a next state that satisfies `p`. -/
def runs (i : Instr) (s : State) (p : State → Bool) : Bool := match exec i s with | .next t => p t | _ => false

/-- Register `n` of a file holds `x` afterwards. -/
def gets (f : RFile) (n : Nat) (x : W64) (t : State) : Bool := t.me.regs.get f n == x

/-- Lanes 0 and 1 of a v register hold two words afterwards. -/
def lanes (n : Nat) (x y : W32) (t : State) : Bool :=
  elem ((t.core 0).v.get n 0) 0 32 == x && elem ((t.core 0).v.get n 0) 1 32 == y

/-- R326, R327, R359: sums wrap; MOVI extends its sign. -/
theorem test_sums :
    runs (.add g0 3 (r 1) (r 2) false) (withRegs .a [(1, 0xFFFFFFFFFFFFFFFF), (2, 2)]) (gets .a 3 1) = true ∧
    runs (.add g0 3 (r 1) (r 2) true) (withRegs .a [(1, 0x7FFFFFFF), (2, 1)]) (gets .a 3 0xFFFFFFFF80000000) = true ∧
    runs (.addi g0 1 (r 1) false 0xFFFFF) (withRegs .a [(1, 0)]) (gets .a 1 0xFFFFFFFFFFFFFFFF) = true ∧
    runs (.movi g0 9 false 0x1F000000) base (gets .a 9 0xFFFFFFFFFF000000) = true := by decide

/-- R353: the worked values of MAX, MAX.S and MIN.W32.S. -/
theorem test_max_min :
    runs (.max g0 4 (r 1) (r 2) false false) (withRegs .a [(1, 0xFFFFFFFFFFFFFFFF), (2, 1)]) (gets .a 4 0xFFFFFFFFFFFFFFFF) = true ∧
    runs (.max g0 4 (r 1) (r 2) false true) (withRegs .a [(1, 0xFFFFFFFFFFFFFFFF), (2, 1)]) (gets .a 4 1) = true ∧
    runs (.min g0 4 (r 1) (r 2) true true) (withRegs .a [(1, 0x80000000), (2, 5)]) (gets .a 4 0xFFFFFFFF80000000) = true := by decide

/-- R375: the worked values of SHR.W32. -/
theorem test_shifts :
    runs (.shr g0 4 (r 1) (r 2) true) (withRegs .a [(1, 0x80000000), (2, 32)]) (gets .a 4 0xFFFFFFFF80000000) = true ∧
    runs (.shr g0 4 (r 1) (r 2) true) (withRegs .a [(1, 0x80000000), (2, 1)]) (gets .a 4 0x40000000) = true ∧
    runs (.sra g0 4 (r 1) (r 2) false) (withRegs .a [(1, 0x8000000000000000), (2, 63)]) (gets .a 4 0xFFFFFFFFFFFFFFFF) = true := by
  decide

/-- R341, R372: the corners of DIV and REM. -/
theorem test_division_corners :
    runs (.div g0 4 (r 1) (r 2) false false) (withRegs .a [(1, 7)]) (gets .a 4 0xFFFFFFFFFFFFFFFF) = true ∧
    runs (.rem g0 4 (r 1) (r 2) false false) (withRegs .a [(1, 7)]) (gets .a 4 7) = true ∧
    runs (.div g0 4 (r 1) (r 2) false true) (withRegs .a [(1, 0x8000000000000000), (2, 0xFFFFFFFFFFFFFFFF)])
      (gets .a 4 0x8000000000000000) = true ∧
    runs (.rem g0 4 (r 1) (r 2) false true) (withRegs .a [(1, 0xFFFFFFFFFFFFFFF9), (2, 2)]) (gets .a 4 0xFFFFFFFFFFFFFFFF) = true := by
  decide

/-- R336, R368: leading zeros and set bits, of a zero too. -/
theorem test_bit_counts :
    runs (.clz g0 5 (r 9) true) (withRegs .a [(9, 0x100000001)]) (gets .a 5 31) = true ∧
    runs (.clz g0 5 (r 9) false) base (gets .a 5 64) = true ∧
    runs (.popc g0 5 (r 9) false) (withRegs .a [(9, 0xF00000000000000F)]) (gets .a 5 8) = true := by decide

/-- R80, R337, R344, R374: a compare, guard logic with a negated source, SEL, and a mark that zeroes its source. -/
theorem test_guards_and_marks :
    runs (.cmp g0 1 (r 1) (r 2) 2 false) (withRegs .a [(1, 0xFFFFFFFFFFFFFFFF), (2, 1)]) (fun t => t.me.regs.g.getLsbD 1) = true ∧
    runs (.cmp g0 1 (r 1) (r 2) 4 false) (withRegs .a [(1, 0xFFFFFFFFFFFFFFFF), (2, 1)]) (fun t => !t.me.regs.g.getLsbD 1) = true ∧
    runs (.gor g0 3 true 0 true 2) base (fun t => t.me.regs.g.getLsbD 3) = true ∧
    runs (.sel g0 4 true 3 (r 1) (r 2)) (withRegs .a [(1, 5), (2, 6)]) (gets .a 4 5) = true ∧
    runs (.add g0 3 ⟨true, 1⟩ (r 2) false) (withRegs .a [(1, 5), (2, 6)]) (fun t => gets .a 3 11 t && gets .a 1 0 t) = true ∧
    runs (.add ⟨true, 0⟩ 3 ⟨true, 1⟩ (r 2) false) (withRegs .a [(1, 5), (2, 6)]) (fun t => gets .a 3 0 t && gets .a 1 5 t) = true := by decide +kernel

/-- R84, R347, R376: a store is seen by the stream's own load, sign-extended; a misaligned one raises cause 6. -/
theorem test_store_then_load :
    runs (.st g0 (r 3) (r 2) 1 0x80) (withRegs .a [(2, 0x1000), (3, 0x12348765)]) (fun t =>
      spadRead (t.core 0) .main 0x1080 4 == [0x65, 0x87, 0, 0] && readBytes (t.core 0).spad 0x1080 2 == [0, 0] &&
      runs (.ld g0 4 (r 2) 1 true 0x80) t (gets .a 4 0xFFFFFFFFFFFF8765)) = true ∧
    runs (.ld g0 4 (r 2) 1 true 0x81) (withRegs .a [(2, 0x1000)]) (fun t =>
      t.me.run == .stopped && fld t.me.sys.tcause 0 8 == 6 && fld t.me.sys.tcause 32 29 == 0x1081) = true := by decide +kernel

/-- R396: XFR to an m register, and from an element of a q register. -/
theorem test_transfers :
    runs (.xfr g0 4 0 1 2 true 0) (withRegs .a [(2, 77)]) (fun t => gets .m 0 77 t && gets .a 2 0 t) = true ∧
    runs (.xfr g0 1 4 6 3 false 1) (base.updStream base.cur fun st => { st with q := st.q.set 3 (BitVec.ofNat 4096 (9 * 2 ^ 64)) 0 })
      (gets .a 4 9) = true := by decide +kernel

/-- R384: integer lanes wrap; VABS leaves 0x80000000; FP32 lanes: 1.5 + 2.25 = 3.75, and VMAX orders −0 below +0. -/
theorem test_vector_arithmetic :
    runs (.vadd g0 4 (v 1) (v 2) 0) (withLanes [(1, 0xFFFFFFFF, 3), (2, 2, 4)]) (lanes 4 1 7) = true ∧
    runs (.vabs g0 4 (v 1) 0) (withLanes [(1, 0x80000000, 0xFFFFFFFE)]) (lanes 4 0x80000000 2) = true ∧
    runs (.vadd g0 4 (v 1) (v 2) 2) (withLanes [(1, 0x3FC00000, 0), (2, 0x40100000, 0)]) (lanes 4 0x40700000 0) = true ∧
    runs (.vmax g0 4 (v 1) (v 2) 2) (withLanes [(1, 0x80000000, 0x7FC00000), (2, 0, 5)]) (lanes 4 0 5) = true := by decide +kernel

/-- R388, R389: the worked values of VCVT, VRCP and VRSQ. -/
theorem test_vector_conversions :
    runs (.vcvt g0 6 (v 2) 6 4) (withLanes [(2, 0x3F880800, 0)]) (fun t => elem ((t.core 0).v.get 6 0) 0 16 == 0x3F88) = true ∧
    runs (.vcvt g0 6 (v 2) 6 0) (withLanes [(2, 0x43960000, 0)]) (fun t => elem ((t.core 0).v.get 6 0) 0 8 == 0x7F) = true ∧
    runs (.vrcp g0 5 (v 6) 2) (withLanes [(6, 0x40400000, 0x40800000)]) (lanes 5 0x3EAAAAAB 0x3E800000) = true ∧
    runs (.vrsq g0 5 (v 6) 2) (withLanes [(6, 0x40800000, 0x3F800000)]) (lanes 5 0x3F000000 0x3F800000) = true := by decide +kernel

/-- R386, R387, R394: a signed compare into a lane guard, a select by it, and a sum of lanes. -/
theorem test_vector_masks :
    runs (.vcmp g0 1 (v 3) (v 4) 2 0) (withLanes [(3, 0xFFFFFFFF, 5), (4, 1, 5)]) (fun t => t.me.regs.vg.get 1 0 == 1) = true ∧
    runs (.vsel g0 9 1 true (v 3) (v 4)) (withLanes [(3, 7, 8), (4, 1, 2)]) (lanes 9 7 8) = true ∧
    runs (.vred g0 10 (v 2) 0 0) (withLanes [(2, 7, 8)]) (lanes 10 15 0) = true := by decide +kernel

/-- R172: TAGL finds the slot of a tag, and answers all ones for a tag that no slot holds. -/
theorem test_tag_lookup :
    runs (.tagl g0 20 21 0) ((withLanes [(21, 77, 0)]).updRegs base.cur fun x => { x with tags := x.tags.set 5 ⟨true, 77⟩ {} }) (fun t =>
      elem ((t.core 0).v.get 20 0) 0 64 == 5 && elem ((t.core 0).v.get 20 0) 1 64 == BitVec.allOnes 64) = true := by decide +kernel

/-- R330, R334, R350, R357, R362: BR, CALL with its return address, LOOP, MTS to DOM with a bad level, OPP. -/
theorem test_control :
    runs (.br g0 0xFFFFFFFF) (base.updRegs base.cur fun x => { x with pc := 0x100 }) (fun t => t.me.regs.pc == 0xFE) = true ∧
    runs (.call g0 15 0x10) (base.setFrame { base.frame with npc := some 8 }) (fun t => t.me.regs.pc == 0x20 && gets .k 15 8 t) = true ∧
    runs (.loop g0 (.imm 5) 0x20) (base.setFrame { base.frame with npc := some 8 }) (fun t =>
      t.me.regs.loops == [{ count := 5, exit := 0x40, start := 8 }]) = true ∧
    runs (.mts g0 (r 2) 5) (withRegs .k [(2, 6)]) (fun t => fld t.me.sys.tcause 0 8 == 2 && fld t.me.sys.tcause 32 29 == 5 &&
      t.me.regs.dom == 4) = true ∧
    runs (.opp g0 (.imm 3)) base (fun t => t.me.sys.oppReq == 3 && (t.core 0).power.trans == some 5 ||
      t.me.sys.oppReq == 3) = true := by decide

/-- R91, R164: an engine slot starts a new generation of its token; a guarded-off one sets it with status 1. -/
theorem test_tokens :
    runs (.tokj (eh 9 0 0 0)) base (fun t => !(t.me.gen (t.me.regs.t.get 9 0)).set && t.me.dq.length == 1) = true ∧
    runs (.cbar ⟨⟨true, 0⟩, false, 9, 0, 0, 0⟩) base (fun t =>
      (t.me.gen (t.me.regs.t.get 9 0)).set && (t.me.gen (t.me.regs.t.get 9 0)).status == 1 && t.me.dq.isEmpty && t.me.dheld.isEmpty) =
      true := by decide

/-- R61, R77, R95: the step of a fetched word and of an empty bundle; the default schedule runs Main of core 0. -/
theorem test_steps :
    (match step (State.reset.withFetchWord 64 (0x0102 + 2 ^ 16 * 0x002040200004)) with
      | .next t => (t.stream ⟨0, .main⟩).regs.get .a 1 == 4 && (t.stream ⟨0, .main⟩).regs.pc == 8 | _ => false) = true ∧
    (match step (State.reset.withFetchWord 16 0x0100) with
      | .next t => (t.stream ⟨0, .main⟩).regs.pc == 2 | _ => false) = true ∧
    (match step (State.reset.withFetchWord 64 (0x0101)) with
      | .next t => fld (t.stream ⟨0, .main⟩).sys.tcause 0 8 == 2 && fld (t.stream ⟨0, .main⟩).sys.tcause 32 29 == 3 | _ => false) = true := by
  decide

/-! ### What meets the hypotheses of the statements -/

/-- `Runs`, computed. -/
def ready (s : State) (i : Instr) : Bool :=
  decide (s.cur.core < numCores) && (Instr.prep s i == .go) && guardHolds s.src.regs i.guard && (lowest (issueTraps s [i])).isNone

theorem runs_of_ready {s : State} {l : List Instr} (h : l.all (ready s) = true) : ∀ i ∈ l, Runs i s := by
  intro i hi
  have := List.all_eq_true.mp h i hi
  simpa [ready, Runs, and_assoc] using this

/-- `base` past its first commit, with room for every form: a checkpoint address, a LOOP on the stack, a set token 5. -/
def room : State := base.updStream base.cur fun st =>
  { st with ckptAt := some 0, regs := { st.regs with loops := [{ count := 2, exit := 0x40, start := 0 }] } }

/-- `base` with every index lane of v1 at the value that skips it, v2 all zeros, a tag in slot 5, one that is not valid in slot 6. -/
def skipping : State := (base.updCore 0 fun c => { c with v := c.v.set 1 (BitVec.ofNat 8192 (0x80000000 * ((2 ^ 8192 - 1) / (2 ^ 32 - 1)))) 0 }).updStream
  base.cur fun st => { st with ckptAt := some 0, regs := { st.regs with tags := (st.regs.tags.set 5 ⟨true, 77⟩ {}).set 6 ⟨false, 77⟩ {} } }

/-- ArithmeticLogicAndShiftResults, DivisionOrderAndBitCountResults, GuardResults: any stream at rest, here under a
guard that is clear and negated too. -/
theorem witness_steady : Steady base ∧ guardHolds base.src.regs g0 = true ∧ guardHolds base.src.regs ⟨true, 3⟩ = true ∧
    guardHolds base.src.regs ⟨true, 0⟩ = false ∧
    (withRegs .a [(1, 0x8000000000000000), (2, 0xFFFFFFFFFFFFFFFF)]).rd .a (r 1) = BitVec.intMin 64 ∧
    (withRegs .a [(1, 0x8000000000000000), (2, 0xFFFFFFFFFFFFFFFF)]).rd .a (r 2) = -1 ∧
    ((withRegs .a [(1, 0x80000000)]).rd .a (r 1)).setWidth 32 = BitVec.intMin 32 := by unfold Steady; decide

/-- ScalarLoadsAndStores: the first and the last address of each width. -/
theorem witness_ScalarLoadsAndStores : ∀ sz : BitVec 2, ∀ a ∈ [0, 0x1800000 - 2 ^ sz.toNat],
    let s := withRegs .a [(2, BitVec.ofNat 64 a)]
    Steady s ∧ (s.rd .a (r 2)).toNat + (0 : BitVec 18).toInt = (a : Int) ∧ stAddr s (r 2) 0 = (a : Int) ∧ a % 2 ^ sz.toNat = 0 ∧
    a + 2 ^ sz.toNat ≤ 0x1800000 ∧ s.src.regs.phase.sets = none ∧ atomHit s.me.atoms a (2 ^ sz.toNat) = false ∧
    lineCount (withhold s.me.withheld a (List.replicate (2 ^ sz.toNat) 0)) ≤ 1024 := by unfold Steady; decide +kernel

/-- RegisterTransfers: between private files, and from and to elements. -/
theorem witness_RegisterTransfers :
    (∀ i ∈ [.xfr g0 4 0 1 2 true 0, .xfr g0 4 0 0 15 false 0, .xfr g0 1 4 6 3 false 63, .xfr g0 7 639 1 2 true 127,
      .xfr g0 7 3 8 4 true 1], Runs i base) ∧
    axReg 4 0 0 = [⟨.m, 0, none⟩] ∧ axReg 1 2 0 = [⟨.a, 2, none⟩] ∧ axReg 6 3 63 = [⟨.q, 3, some 63⟩] ∧
    axReg 7 639 127 = [⟨.v, 639, some 127⟩] := ⟨runs_of_ready (by decide +kernel), by decide⟩

/-- VectorArithmeticLanes, VectorMoves, VectorComparesAndReductions: every form at the registers 0 and 639, marked and not. -/
theorem witness_vector_forms :
    (∀ i ∈ [639, 0].flatMap fun n => [0, 1, 2].flatMap fun vt : BitVec 3 => [true, false].flatMap fun m =>
      let a : VSrc := ⟨m, n⟩
      [.vadd g0 n a (v 2) vt, .vsub g0 n a (v 2) vt, .vmul g0 n a (v 2) vt, .vfma g0 n a (v 2) vt, .vmin g0 n a (v 2) vt,
       .vmax g0 n a (v 2) vt, .vclamp g0 n a (v 2) vt, .vshl g0 n a (v 2) vt, .vshr g0 n a (v 2) vt, .vand g0 n a (v 2) 0,
       .vor g0 n a (v 2) 0, .vxor g0 n a (v 2) 0, .vabs g0 n a vt, .vmov g0 n a 0, .vexp2 g0 n a 2, .vrcp g0 n a 2,
       .vrsq g0 n a 2, .vbcast g0 n (.com 31), .vbcast g0 n (.imm false 0xFFFF), .vbcast g0 n (.imm true 0),
       .vsel g0 n 7 m a (v 2), .vcompact g0 n 0 m a, .vperm g0 n a (v 2) 0, .vcvt g0 n a 6 0, .vcvt g0 n a 2 6,
       .vcmp g0 7 a (v 2) 5 vt, .vred g0 n a 2 vt, .vscan g0 n a 0 vt], Runs i base) ∧
    Fmt.ofCode 6 ≠ none ∧ Fmt.ofCode 0 ≠ none ∧ Fmt.ofCode 2 ≠ none := ⟨runs_of_ready (by decide +kernel), by decide⟩

/-- VectorLoadsAndStores, ScratchpadAtomicsWaitOrAct, TagTableResults. -/
theorem witness_indexed_forms :
    (∀ i ∈ [.vld g0 639 0 0 0, .vld g0 0 1 0 1023, .vlde g0 4 0 0 1, .vldx g0 4 0 0 1 true, .vldx g0 4 0 0 2 false, .vstx g0 3 0 0 1 true false,
       .aadd g0 3 0 0 1 0, .aadd g0 3 0 0 2 1, .aaddf g0 3 0 0 2 0,
      .aaddf g0 3 0 0 1 1, .acas g0 3 0 0 2 0, .acas g0 3 0 0 1 1, .aswap g0 3 0 0 2 1, .aswap g0 3 0 0 1 0, .tagl g0 4 2 0, .tagw g0 4 2 0,
      .tagi g0 4 0], Runs i skipping) ∧ SMap.canon {} skipping.src.regs.tags = true := ⟨runs_of_ready (by decide +kernel), by decide⟩

/-- VectorLoadsAndStores, the stores of a whole register: the first line, and 256 lanes at one word. -/
theorem witness_vector_stores : Runs (.vst g0 1 0 0 false 0) base ∧ Runs (.vstx g0 3 0 0 2 false false) base :=
  ⟨runs_of_small_store (by decide) (by decide) (by decide +kernel) (by decide +kernel) (by decide +kernel) (by decide +kernel),
   runs_of_small_store (by decide) (by decide) (by decide +kernel) (by decide +kernel) (by decide +kernel) (by decide +kernel)⟩

/-- ScratchpadAtomicsWaitOrAct, the commit: two lanes at one word, one at another. -/
theorem witness_applied_atomics : ∀ w ∈ [4, 8], (∀ p ∈ [(0, (5 : W64)), (8, 7), (0, 1)], p.1 % w = 0) ∧ 0 < w ∧ 0 % w = 0 ∧
    readLE (applyAtomic [] ⟨none, w, [(0, 5), (8, 7), (0, 1)]⟩) 0 w = 6 := by decide

/-- ScratchpadAtomicsWaitOrAct, the commit of AADDF: 1.0 twice and an infinity at one cell, in each format. -/
theorem witness_applied_cells : ∀ x ∈ [(0, Fmt.fp32, 0x3F800000, 0x7F800000), (1, .bf16, 0x3F80, 0x7F80), (2, .fp16, 0x3C00, 0x7C00)],
    let lanes : List (Nat × W64) := [(32, BitVec.ofNat 64 x.2.2.1), (0, 0), (32, BitVec.ofNat 64 x.2.2.1), (32, BitVec.ofNat 64 x.2.2.2)]
    [Fmt.fp32, .bf16, .fp16][(BitVec.ofNat 2 x.1).toNat]? = some x.2.1 ∧ (∀ p ∈ lanes, p.1 % 32 = 0) ∧
    readBytes (applyAtomic [] ⟨some (BitVec.ofNat 2 x.1), 32, lanes⟩) 32 32 =
      List.replicate 8 0 ++ [2] ++ List.replicate 7 0 ++ [8] ++ List.replicate 15 0 := by decide +kernel

/-- JumpResults, LoopsPushEndAndLeave, ControlResults, StoppingFormsAsk: every form, LOOP with a count and with none. -/
theorem witness_control_forms :
    (∀ i ∈ [.br g0 0x7FFFFFFF, .brx g0 ⟨true, 1⟩, .call g0 15 0, .ret g0 (r 1), .loop g0 (.imm 1) 0x20, .loop g0 (.reg ⟨true, 1⟩) 0x20,
      .leave g0, .mts g0 (r 1) 5, .mts g0 (r 1) 8, .fmt g0 (.reg (r 2)), .fmt g0 (.imm 0x1666), .opp g0 (.imm 7), .opp g0 (.imm 0), .rcm g0 (.imm 1), .rcm g0 (.reg (r 1)),
      .phase g0 (.imm 0), .phase g0 (.reg ⟨true, 1⟩), .stat g0 1 3, .lit 5, .wait g0 0 0 0 0, .wait g0 5 0 0 6, .halt g0, .brk g0 0xFFFF, .svc g0 0,
      .svc g0 0xFFFE, .svc g0 0xFFFF], Runs i room) ∧
    (∀ i ∈ [.svc g0 0xFFFF, .svc g0 4], Runs i (room.updRegs room.cur fun x => { x with handler := some {} })) ∧
    tripCount room (.imm 1) ≠ 0 ∧ tripCount room (.reg ⟨true, 1⟩) = 0 ∧ room.me.regs.handler = none :=
  ⟨runs_of_ready (by decide +kernel), runs_of_ready (by decide +kernel), by decide⟩

/-- SpecialRegisterReads: every special register that MFS reads, with two loops on the stack. -/
theorem witness_SpecialRegisterReads :
    let s := room.updRegs room.cur fun x => { x with loops := [{ count := 2, exit := 0x40, start := 0 }, { count := 1, exit := 0x40, start := 0 }] }
    s.src.launch ≠ none ∧ s.src.regs.loops.reverse[1]? = some { count := 2, exit := 0x40, start := 0 } ∧ s.src.regs.loops.length ≤ 2 ∧
    ∀ i ∈ (List.range 16 ++ [0xC0, 0xC1] ++ (List.range 12).map (0x10 + ·) ++ (List.range 128).map (0x40 + ·)).map
      fun n => Instr.mfs g0 15 (BitVec.ofNat 12 n), Runs i s := ⟨by decide, by decide, by decide, runs_of_ready (by decide +kernel)⟩

/-- GuardedOffSlots: a slot of each kind, and an engine slot that arms a hold. -/
theorem witness_GuardedOffSlots :
    let off : Gd := ⟨true, 0⟩
    let h : Eh := ⟨off, true, 9, 0, 0, 0⟩
    ∀ i ∈ [Instr.add off 1 (r 2) (r 3) false, .vmov off 1 (v 2) 0, .vld off 1 0 0 0, .leave off, .mzero h 0 1, .pgrp h 0, .xget h 8 0,
      .xmv h 9 (.reg 3), .tokj h], guardHolds base.src.regs i.guard = false ∧
      (∀ r ∈ i.reads ++ i.writes, r.file = .x → xPending base.me r.ix = false) ∧ i.slot ≠ none ∧
      (i.eh.isSome → i.eh = some h) := by decide +kernel

/-- OffendingSlotsTrap, clause by clause: below 0, past the end, misaligned; an unallotted v register, no loop, a bad level, DET,
an error status. -/
theorem witness_OffendingSlotsTrap :
    let det := base.updStream base.cur fun st => { st with launch := some { vcl := 1, det := true, zt := 4 } }
    let erred := base.updStream base.cur fun st =>
      { st with gens := st.gens.set 1 { set := true, status := 2 } {}, regs := { st.regs with t := st.regs.t.set 5 1 0 } }
    (∀ s ∈ [base, det, erred], Steady s ∧ guardHolds s.src.regs g0 = true ∧ s.me.atoms = []) ∧
    (base.rd .a (r 2)).toNat + (BitVec.ofInt 18 (-1)).toInt < 0 ∧ (base.rd .a (r 2)).toNat + (BitVec.ofInt 16 (-8)).toInt < 0 ∧
    ((withRegs .a [(2, 0x1800000)]).rd .a (r 2)).toNat + (0 : BitVec 18).toInt + 1 > 0x1800000 ∧
    ((withRegs .a [(2, 0x17FFFFE)]).rd .a (r 2)).toNat + (0 : BitVec 18).toInt + 4 > 0x1800000 ∧
    ((withRegs .a [(2, 3)]).rd .a (r 2)).toNat + (0 : BitVec 18).toInt = 3 ∧
    det.src.vcl.getLsbD ((64 : BitVec 10).toNat / 64) = false ∧ det.me.sys.gatedClusters = 0 ∧ base.src.regs.loops = [] ∧
    ((withRegs .k [(1, 6)]).rd .k (r 1)).toNat ≥ 6 ∧ det.src.det = true ∧
    (erred.me.gen (erred.src.regs.gen 5)).set = true ∧ (erred.me.gen (erred.src.regs.gen 5)).status ≥ 2 := by
  unfold Steady; decide +kernel

/-- SlotsTouchTheirCoreAlone: a slot that runs, one that is guarded off, one that traps. -/
theorem witness_SlotsTouchTheirCoreAlone : ∀ i ∈ [Instr.add g0 1 (r 2) (r 3) false, .add ⟨true, 0⟩ 1 (r 2) (r 3) false, .leave g0],
    i.slot ≠ none ∧ runs i base (fun _ => true) = true := by decide

/-- EngineOperationsIssue: every form issues; DET holds ATOMR alone. -/
theorem witness_EngineOperationsIssue : ∀ i ∈ [.manch (eh 1 0 0 0) 0 1, .mdrain (eh 63 0 0 0) 3 15, .mma (eh 0 2 3 4) 3 1 2,
    .mmas (eh 1 0 0 0) 0 7 7 3, .mzero (eh 1 0 0 0) 0 1, .pcheck (eh 1 0 0 0) 15, .pdot (eh 1 0 0 0) 1 15 2, .pgrp (eh 1 0 0 0) 0,
    .pscan (eh 1 0 0 0) 3 4, .pscore (eh 1 0 0 0) 5, .xget (eh 1 0 0 0) 8 15, .xmv (eh 1 0 0 0) 9 (.reg 3), .xmv (eh 1 0 0 0) 9 (.port 16),
    .xmvi (eh 1 0 0 0) 31 false 31, .xmvi (eh 1 0 0 0) 7 true 0, .atomm (eh 1 0 0 0) 30 0, .atomr (eh 1 0 0 0) 0 7, .cbar (eh 1 0 0 0),
    .cpy (eh 1 0 0 0) 0 0 0, .cpyg (eh 1 0 0 0) 0 0 0, .cpys (eh 1 0 0 0) 0 0 0, .cpyx (eh 1 0 0 0) 30 0 0, .cred (eh 1 0 0 0) 0 0,
    .cred (eh 1 0 0 0) 0 1, .fence (eh 1 0 0 0) 1 true, .gdone (eh 1 0 0 0) 31, .gtrig (eh 1 0 0 0) 0, .notify (eh 1 0 0 0) 0, .tokj (eh 1 2 3 4)],
    Runs i base := runs_of_ready (by decide +kernel)

/-- The third part: two streamed operands and one free stream copy. -/
theorem witness_streamed_issue :
    let copy : Op := { id := 1, bundle := 0, pc := 0, opc := 4, body := .cpy .cpy 0 0x4000000000000000 0 0 }
    let s := base.updStream base.cur fun st => { st with
      dq := [copy], nextId := 2, regs := { st.regs with m := (st.regs.m.set 1 (1#64 <<< 53) 0).set 2 (1#64 <<< 53) 0 } }
    ∀ i ∈ [.mma (eh 1 0 0 0) 0 1 2], Runs i s := runs_of_ready (by decide +kernel)

/-- `base` with its stream changed. -/
def main (f : Stream → Stream) : State := base.updStream ⟨0, .main⟩ f

/-- SlotsRunWhenReady, K slots: what each form asks. -/
theorem witness_SlotsRunWhenReady_K : Steady room ∧ room.src.det = false ∧ room.me.det = false ∧ room.src.regs.loops ≠ [] ∧
    (tripCount room (.imm 3) ≠ 0 ∧ ∀ top ∈ room.src.regs.loops.head?, top.start ≤ room.npc ∧ room.src.regs.pc + 2 * (0x20 : W48) ≤ top.exit) ∧
    (room.rd .k (r 1)).toNat < 6 ∧ fmtCodesOk ((room.rd .k (r 1)).setWidth 16) = true ∧
    (room.core 0).power.trans = none ∧ (kVal room (.imm 7)).toNat < 8 ∧ (∀ n < 10, (kVal room (.imm 0x3FF)).getLsbD n = true → room.src.vcl.getLsbD n = true) ∧
    AtCommit room.me ∧ (∀ n < 31, 25 ≤ n → (kVal room (.imm 0x81)).getLsbD n = false) ∧ (3 : BitVec 2).toNat < room.src.zt ∧
    (∀ t ∈ [(5 : BitVec 6), 0, 63, 0], t ≠ 0 → (room.me.gen (room.src.regs.gen t)).set = true ∧ (room.me.gen (room.src.regs.gen t)).status < 2) := by
  refine ⟨by unfold Steady; decide, by decide, by decide, by decide, by decide, by decide, by decide, by decide, by decide, by decide,
    by unfold AtCommit; decide, by decide, by decide, by decide⟩

/-- SlotsRunWhenReady, slots of A, V and L: an add, a load, a whole v register, a held atomic, a swap, an XFR. -/
theorem witness_SlotsRunWhenReady_AVL : Steady skipping ∧ skipping.src.regs.phase.sets = none ∧ skipping.src.det = false ∧ skipping.me.xq = [] ∧ skipping.me.pq = [] ∧
    AtCommit skipping.me ∧ swapRoom skipping (.aswap g0 5 0 63 1 0) = true ∧ skipping.me.atoms = [] ∧ skipping.me.beforeV = [] ∧ skipping.me.beforeQ = [] ∧
    ∀ i ∈ [.add g0 1 (r 2) (r 3) false, .ld g0 1 (r 2) 3 false 8, .xfr g0 7 639 1 2 true 127, .xfr g0 6 0 6 1 false 0, .vadd g0 639 (v 0) (v 64) 0,
      .vld g0 5 0 3 1, .aadd g0 5 0 0 1 1, .aswap g0 5 0 63 1 0, .tagl g0 4 2 0],
      (∀ n ∈ i.vregs, skipping.src.vcl.getLsbD (n / 64) = true ∧ (skipping.me.sys.gatedClusters.getLsbD (n / 64) && skipping.me.vcl.getLsbD (n / 64)) = false) ∧
      (i.lct ≠ 0 → (skipping.me.gen (skipping.src.regs.gen i.lct)).set = true ∧ (skipping.me.gen (skipping.src.regs.gen i.lct)).status < 2) ∧
      spadFail skipping i = none ∧ (∀ r ∈ slotAccesses skipping i, atomHit skipping.me.atoms r.1 r.2.1 = false) ∧
      lineCount ((slotAccesses skipping i).foldl (fun w r => if r.2.2 then withhold w r.1 (List.replicate r.2.1 0) else w) skipping.me.withheld) ≤ 1024 := by
  refine ⟨by unfold Steady; decide, by decide, by decide, by decide, by decide, by unfold AtCommit; decide, by decide +kernel, by decide, by decide, by decide, by decide +kernel⟩

/-- SlotsRunWhenReady, engine slots. -/
theorem witness_SlotsRunWhenReady_engines : Steady base ∧ base.src.det = false ∧ base.me.xq = [] ∧ base.me.dheld = [] ∧ base.me.mq.length < 8 ∧ base.me.pq.length < 8 ∧
    base.me.dheld.length + (base.me.dq.filter fun o => o.stage != .finished).length < 32 ∧
    ∀ i ∈ [Instr.mma (eh 1 0 0 0) 3 1 2, .pdot (eh 1 2 0 0) 1 3 2, .pgrp (eh 1 0 0 63) 2, .xget (eh 1 0 0 0) 8 3, .cbar (eh 1 2 3 4), .atomr (eh 1 0 0 0) 0 7],
      (∀ z, i.tile = some z → z < base.src.zt) ∧ ∀ h t, i.eh = some h → t = h.ct0 ∨ t = h.ct1 ∨ t = h.ct2 → t ≠ 0 →
        (base.me.gen (base.src.regs.gen t)).set = true ∨ heldGen base.me 40 (base.src.regs.gen t) = false := by
  refine ⟨by unfold Steady; decide, by decide, by decide, by decide, by decide, by decide, by decide, ?_⟩
  have set : ∀ t : BitVec 6, (base.me.gen (base.src.regs.gen t)).set = true := by decide
  intro i hi
  refine ⟨?_, fun _ t _ _ _ => .inl (set t)⟩
  · simp only [List.mem_cons, List.not_mem_nil, or_false] at hi
    rcases hi with rfl | rfl | rfl | rfl | rfl | rfl <;> simp [Instr.tile] <;> decide

/-- An operation with token 9 and generation 1. -/
def op1 (b : OpBody) : Op := { id := 1, bundle := 0, pc := 0, opc := 5, body := b, tok := 9, out := 1 }

/-- The gens of a stream with one operation at work. -/
def gens1 : SMap Gen := [(1, { set := false })]

/-- VirtualEngineOperations: an operation queued, bound, started, of both forms, with a younger one behind it. -/
theorem witness_VirtualEngineOperations : ∀ zero sub : Bool, ∀ stg ∈ [Stage.queued, .bound, .started],
    let o : Op := { op1 (if zero then .mzero 3 5 else .manch 3 5) with stage := stg, sub := sub }
    let rest : List Op := [{ op1 .tokj with id := 2 }]
    let s := main fun st => { st with mq := o :: rest, tileImgs := if stg = .started then [(3, {})] else [] }
    (0 < numCores ∧ (s.stream ⟨0, .main⟩).mq = o :: rest ∧ (∀ x ∈ rest, o.id < x.id) ∧ (s.core 0).retireDue = false ∧ o.body = (if zero then .mzero 3 5 else .manch 3 5) ∧ o.stage = stg ∧
    (∀ g ∈ o.ins, ((s.stream ⟨0, .main⟩).gen g).set = true ∧ ((s.stream ⟨0, .main⟩).gen g).status < 2) ∧ (s.stream ⟨0, .main⟩).pq = [] ∧ (s.core 0).miz.mq = [] ∧
    (s.core 0).miz.pq = [] ∧ (s.core 0).half = none ∧ (∀ x ∈ rest, x.stage = .queued) ∧ o.sub = sub ∧ o.status = 0 ∧ SMap.canon {} ((s.core 0).tiles.get 3 {}).z = true ∧
    (stg = .started → ((s.stream ⟨0, .main⟩).tileImgs.any fun p => p.1 == 3) = true)) := by decide

/-- MatrixResults: an MMA of one column, of plain and of block-scaled operands, with and without a scale; a drain to FP8. -/
theorem witness_MatrixResults :
    (∀ f ∈ [0, 1], ∀ sc ∈ [none, some (0 : W64)],
      let d : W64 := BitVec.ofNat 64 (2 ^ 28 + 2 ^ 40)
      let o : Op := { op1 (.mma 0 d d sc none f 0) with stage := .started }
      let s := main fun st => { st with mq := [o], tileImgs := [(0, {})] }
      s.atPlace 0 .m false .started = some (⟨0, .main⟩, o) ∧ o.status = 0 ∧ o.entered = [] ∧ (s.stream ⟨0, .main⟩).regs.phase.sets = none ∧
      (match s.mmaOperands ⟨0, .main⟩ o d d sc none f 0 with | .ok x => SMap.canon {} ((x.1.core 0).tiles.get 0 {}).z | .error _ => false) = true ∧
      (Fmt.ofCode 0).isSome = true ∧ d.getLsbD 53 = false ∧ d.getLsbD 54 = false ∧ d.getLsbD 55 = false) ∧
    (let d : W64 := BitVec.ofNat 64 (128 * 2 ^ 28)
     let o : Op := { op1 (.mdrain 3 d 2) with stage := .started }
     let s := main fun st => { st with mq := [o] }
     s.atPlace 0 .m false .started = some (⟨0, .main⟩, o) ∧ o.status = 0 ∧ Fmt.ofCode 2 = some .e4m3 ∧ (s.stream ⟨0, .main⟩).regs.phase.sets = none ∧
     SMap.canon {} ((s.core 0).tiles.get 3 {}).z = true ∧ 128 * Fmt.e4m3.size ≤ (d.extractLsb' 28 16).toNat ∧
     lineCount ((List.range 128).foldl (fun w i => withhold w ((d.extractLsb' 0 25).toNat + i * (d.extractLsb' 28 16).toNat)
       (List.replicate (128 * Fmt.e4m3.size) 0)) (s.stream ⟨0, .main⟩).withheld) ≤ 1024) ∧
    (∀ b ∈ [1, 2, 3, 4], flag (BitVec.ofNat 8 (2 ^ b)) b = true) := by
  refine ⟨?_, ⟨by decide, rfl, by decide, by decide, by decide, by decide, ?_⟩, by decide⟩
  · intro f hf sc hsc
    simp only [List.mem_cons, List.not_mem_nil, or_false] at hf hsc
    rcases hf with rfl | rfl <;> rcases hsc with rfl | rfl <;> decide +kernel
  refine Nat.le_trans (lineCount_rows_le (fun i => (BitVec.extractLsb' 0 25 (BitVec.ofNat 64 (128 * 2 ^ 28))).toNat +
    i * (BitVec.extractLsb' 28 16 (BitVec.ofNat 64 (128 * 2 ^ 28))).toNat) (fun _ => 128 * Fmt.e4m3.size) 256 (List.range 128) _
    (by decide +kernel) (by decide +kernel) (by decide +kernel)) (by decide)

/-- A parameter block at 0x1000: K, R, N, LMAX and RMAX of 1, its lists at 0x100 and 0x300, its counts at 0x200 and 0x400. -/
def pblock : SMap Byte := writeBytes [] 0x1000 ((List.zipWith leBytes [4, 4, 4, 4, 4, 2, 2, 4, 4, 4, 4, 4, 4, 4, 4, 4, 2]
  [0, 0x10001, 0x1000, 1, 0x1000, 1, 1, 0x100, 0x200, 0, 0, 0x1000, 16, 0, 0x300, 0x400, 1]).flatten)

/-- SummationResults: fan blocks that are none, of one row of D4 and of D3 with one escape at 1, listed right and wrong, and beyond the end, the smallest scan and tile update, and a block of one neuron, its list apart. -/
theorem witness_SummationResults :
    let at_ (b : OpBody) (m : SMap Byte) (fan : FanSlot) : State × Op :=
      let o : Op := { op1 b with stage := .started, fan := fan, qs := [0] }
      (base.updCore 0 fun c => { c with spad := m, main := { c.main with pq := [o], beforeQ := [(0, 0)], tileImgs := [(0, {})] } }, o)
    let ready (x : State × Op) : Prop :=
      x.1.atPlace 0 .p false .started = some (⟨0, .main⟩, x.2) ∧ x.2.status = 0 ∧ (x.1.stream ⟨0, .main⟩).regs.phase.sets = none
    let num (m : SMap Byte) (x n : Nat) : Nat := leNat (spadRead ((at_ (.pgrp 0) m .empty).1.core 0) .main x n)
    let fan : Fan := { perm := List.range 32, scale := 0, df := 9, base := [1], diff := [List.replicate 31 0] }
    ready (at_ (.pgrp 4) [] .empty) ∧ (4 % 8 ≠ 0 ∧ 0x1800000 < 0x17FFFE0 + 40 ∧ num [] 0 8 / 256 % 16 ≠ 9 ∧ num [] 0 8 / 256 % 16 ≠ 10) ∧
    (∀ x ∈ [(9, 16, 0x80), (10, 12, 0x20)],
      let b (ent : Byte) : SMap Byte := [(1, BitVec.ofNat 8 x.1), (40, BitVec.ofNat 8 x.2.2), (40 + x.2.1, ent)]
      num (b 1) 0 8 % 8 + 1 = 1 ∧ num (b 1) 0 8 / 256 % 16 = x.1 ∧ num (b 1) (40 + x.2.1) 2 % 32 = 1 ∧ num (b 3) (40 + x.2.1) 2 % 32 ≠ 1 ∧
      ∀ k < 31, (num (b 1) 40 x.2.1 / 2 ^ (x.2.1 / 4 * k) % 2 ^ (x.2.1 / 4) = 2 ^ (x.2.1 / 4 - 1) ↔ k = 1)) ∧
    0x17FFFD8 + 40 ≤ 0x1800000 ∧ 0x1800000 < 0x17FFFD8 + 40 + 16 ∧
    ready (at_ (.pscan 0 0 2) [] (.valid fan)) ∧ (Fmt.ofCode 2).isSome = true ∧ (pxUnit 2).isSome = true ∧ fan.perm.length = 32 ∧ (∀ i ∈ fan.perm, i < 32) ∧
    ready (at_ (.pdot 0 0 0) [] (.valid fan)) ∧ (∀ x ∈ fan.diff, x.length = 31) ∧ fan.diff.length = fan.base.length ∧ fan.base.length ≠ 0 ∧
    (∀ b ∈ [OpBody.pscore 0x1000 2, .pcheck 0x1000 2],
      let x := at_ b pblock .empty
      let p := spadRead (x.1.core 0) .main 0x1000 64
      ready x ∧ paramsBad (p.take 40) 2 false = false ∧ paramsBad p 2 true = false ∧ pbField p 22 2 = 1 ∧ num pblock 0x200 4 = 0 ∧
      (∀ y ∈ [(0x100, 0x200), (0x300, 0x400)], ∀ l ≤ 1, y.1 + 2 * l ≤ y.2 ∧
        lineCount (withhold (withhold [] y.1 (List.replicate (2 * l) 0)) y.2 (List.replicate 4 0)) ≤ 1024)) := by decide +kernel

/-- OperationsRetire: a finished operation of M and of P, one that was never bound, a drain that failed with DET = 1; an X operation that runs, one
that consumed an error, a trigger of each unit that has run, with and without a result. -/
theorem witness_OperationsRetire :
    (let o : Op := { op1 (.mzero 0 0) with stage := .finished, sub := true, status := 22 }
     let s := main fun st => { st with mq := [o], pq := [o], gens := gens1 }
     (s.stream ⟨0, .main⟩).mq = [o] ∧ (s.stream ⟨0, .main⟩).pq = [o] ∧ o.stage = .finished) ∧
    (let o : Op := { op1 (.mdrain 0 0 2) with stage := .passed, status := 7 }
     let s := main fun st => { st with mq := [o], gens := gens1, launch := some { fetchLaunch with det := true } }
     (s.stream ⟨0, .main⟩).mq = [o] ∧ o.stage = .passed ∧ (s.stream ⟨0, .main⟩).det = true ∧ 2 ≤ o.status) ∧
    (∀ x ∈ [(15, 0, 0), (15, 0, 15), (31, 0, 0), (31, 0, 12), (23, 1, 0), (23, 0, 0), (7, 0, 0)],
     let o : Op := { op1 (.xmove (BitVec.ofNat 5 x.1) (BitVec.ofNat 64 x.2.1)) with stage := .finished, status := x.2.2, crc := 9 }
     let s := main fun st => { st with xq := [o], gens := gens1 }
     (s.stream ⟨0, .main⟩).xq = [o] ∧ o.ins = [] ∧ o.stage = .finished ∧ (BitVec.ofNat 5 x.1).toNat % 8 = 7) ∧
    ∀ b ∈ [OpBody.xget 8 15, .xget 16 0, .xmove 0 77, .xmove 23 1, .xmove 30 2, .xresult 3 16],
      (let o := op1 b
       let s := main fun st => { st with xq := [o], gens := gens1 }
       (s.stream ⟨0, .main⟩).xq = [o] ∧ o.stage = .queued ∧ o.status = 0 ∧ o.ins = []) ∧
      (let o := { op1 b with ins := [2] }
       let s := main fun st => { st with xq := [o], gens := [(1, { set := false }), (2, { status := 3 })] }
       (∀ g ∈ o.ins, ((s.stream ⟨0, .main⟩).gen g).set = true) ∧ ∃ g ∈ o.ins, 2 ≤ ((s.stream ⟨0, .main⟩).gen g).status) := by
  decide

/-- Parameters for all four units: 4096 elements of INT8 to FP32; a record of at most `cap` bytes; bytes in rows of 32; one byte. -/
def transformer (dp : BitVec 5) (cap : W64) : State := main fun st => { st with xq := [op1 (.xmove dp 1)], regs := { st.regs with xparam :=
  [(0, 0x10000), (1, 0x20000), (2, 4096), (3, 6), (8, 0x40000), (9, 0x41000), (10, cap), (16, 0x50000), (17, 0x51000), (18, 32), (19, 32),
   (24, 0x60000), (25, 1)] } }

/-- Parameter `port` of a unit. -/
def par (s : State) (unit port : Nat) : Nat := ((s.stream ⟨0, .main⟩).regs.xparam.get (8 * unit + port) 0).toNat

/-- TransformResults: all four triggers; a record's CAP of 1156 holds every record, 4 holds none. -/
theorem witness_TransformResults : ∀ dp ∈ [7, 15, 23, 31], ∀ cap ∈ [4, 1156],
    let s := transformer (BitVec.ofNat 5 dp) (BitVec.ofNat 64 cap)
    let st := s.stream ⟨0, .main⟩
    (st.xq = [op1 (.xmove (BitVec.ofNat 5 dp) 1)] ∧ st.regs.phase.sets = none ∧ lineCount st.withheld = 0) ∧
    (convFmt (BitVec.ofNat 4 (par s 0 3 / 16)) = some .int8 ∧ convFmt (BitVec.ofNat 4 (par s 0 3)) = some .fp32 ∧ par s 0 2 = 4096 ∧
      par s 0 0 + 4096 ≤ par s 0 1 ∧ par s 0 1 % 4 = 0 ∧ par s 0 1 + 4 * 4096 ≤ 0x1800000) ∧
    (par s 1 3 = 0 ∧ par s 1 0 % 64 = 0 ∧ par s 1 1 % 4 = 0 ∧ par s 1 2 = cap ∧ par s 1 0 + 1024 ≤ par s 1 1 ∧ par s 1 1 + cap ≤ 0x1800000) ∧
    (par s 2 4 = 0 ∧ par s 2 2 = 32 ∧ par s 2 3 = 32 ∧ par s 2 0 + 1024 ≤ par s 2 1 ∧ par s 2 1 + 1024 ≤ 0x1800000) ∧
    (par s 3 1 = 1 ∧ par s 3 0 + 1 ≤ 0x1800000) := by decide +kernel

/-! Device memory: a context with one bounds entry at 0x100000, an empty page-table root at 0, and one page in the TLBs. -/

/-- A valid, readable and writable local leaf of key 0. -/
def leaf0 : W64 := 0x20001B

/-- The page at virtual address 0x10000, of 64 KiB at 0x200000, for context 0. -/
def page : TlbEntry := ⟨0, 0x10000, 0x200000, 0x10000, leaf0⟩

/-- Bounds entry 0 allows everything; key 0 belongs to partition 0; `d` is the D operation of Main of core 0, `m` its scratchpad. -/
def desk (d : Op) (m : SMap Byte := []) : State :=
  { (base.updCore 0 fun c => { c with spad := m, tlb := [page], main := { c.main with dq := [d], gens := gens1 } }) with
    mem := writeBytes [] 0x100000 (leBytes 16 (2 ^ 63 + 2 ^ 61 + 2 ^ 60 + 2 ^ 64 * (2 ^ 57 - 1)))
    keys := { owner := [(0, some 0)] }
    dies := [(4, { tlb := [page] })]
    mast := { registry := [(0, { boundsPa := 0x100000 })] } }

theorem desk_root (d : Op) (m : SMap Byte) : ∀ n < 512, (desk d m).mem = (desk default).mem ∧ (desk default).mastWord (8 * n) 8 = 0 := by
  intro n hn
  exact ⟨rfl, by revert n; decide +kernel⟩

theorem desk_walk (d : Op) (m : SMap Byte) (va : Nat) : (desk d m).walkCtx 0 va = .error (0, 4) := by
  have h := desk_root d m (va % 2 ^ 57 / 2 ^ (12 + 9 * (3 + 1)) % 512) (Nat.mod_lt _ (by decide))
  have hw : (desk d m).mastWord (8 * (va % 2 ^ 57 / 2 ^ (12 + 9 * (3 + 1)) % 512)) 8 = 0 := by
    unfold State.mastWord State.physRead at h ⊢
    rw [h.1]; exact h.2
  have hr : ((desk d m).ctx 0).ptroot.toNat / 4096 * 4096 = 0 := by simp [desk, State.ctx, SMap.get]
  unfold State.walkCtx
  rw [hr, State.walk, State.entry, Nat.zero_add, hw]
  rfl

/-- What a walk never finds, only the TLBs can give. -/
theorem peekLeaf_quiet {s : State} {ctx : Nat} {core : Option Nat} (hw : ∀ va, ∃ f, s.walkCtx ctx va = .error f)
    (h1 : ∀ c ∈ core, ∀ e ∈ (s.core c).tlb, leafEgr e.leaf = 0) (h2 : ∀ e ∈ (s.die (dieOf core)).tlb, leafEgr e.leaf = 0) :
    ∀ a y, s.peekLeaf ctx core a = some y → leafEgr y.leaf = 0 := by
  have hits : ∀ {l : List TlbEntry} {a : Nat} {e : TlbEntry} {r : List TlbEntry}, (∀ e ∈ l, leafEgr e.leaf = 0) →
      tlbHits l ctx a = e :: r → leafEgr e.leaf = 0 := fun h he => h _ (List.mem_filter.1 (he ▸ List.mem_cons_self)).1
  have first : ∀ e ∈ (match core with | some c => (s.core c).tlb | none => []), leafEgr e.leaf = 0 := by
    cases core with
    | none => intro e he; cases he
    | some c => exact h1 c rfl
  intro a y h
  obtain ⟨f, hf⟩ := hw a
  unfold State.peekLeaf State.translate at h
  simp only [hf] at h
  have two : ∀ e : TlbEntry, leafEgr e.leaf = 0 → ∀ t : State,
      (match (match s.leafFault ctx e.size e.leaf false false with
        | some f => ((t, .error f) : State × Except (Nat × Nat) Xlat)
        | none => (t, .ok ⟨e.pa + (a - e.va), e.size - (a - e.va), e.leaf⟩)).2 with
      | .ok x => some x
      | .error _ => none) = some y → leafEgr y.leaf = 0 := by
    intro e he t h
    cases hf : s.leafFault ctx e.size e.leaf false false <;> rw [hf] at h <;> simp at h
    rw [← h]; exact he
  clear hw
  generalize dieOf core = d at h h2
  rcases core with _ | c
  all_goals
    simp only [] at h first
    first
    | generalize (s.core c).tlb = l1 at h first
    | generalize ([] : List TlbEntry) = l1 at h first
    by_cases c1 : tlbConflict (tlbHits l1 ctx a) = true
    · rw [if_pos c1] at h; cases h
    rw [if_neg c1] at h
    cases e1 : tlbHits l1 ctx a with
    | cons e r => rw [e1] at h; exact two e (hits first e1) _ h
    | nil =>
      rw [e1] at h
      by_cases c2 : tlbConflict (tlbHits (s.die d).tlb ctx a) = true
      · simp only [if_pos c2] at h; cases h
      simp only [if_neg c2] at h
      cases e2 : tlbHits (s.die d).tlb ctx a with
      | cons e r => rw [e2] at h; exact two e (hits h2 e2) _ h
      | nil => rw [e2] at h; cases h

theorem desk_local (d : Op) (m : SMap Byte) : ∀ c ∈ [some 0, none], ∀ a y, (desk d m).peekLeaf 0 c a = some y → leafEgr y.leaf = 0 := by
  intro c hc
  refine peekLeaf_quiet (fun va => ⟨_, desk_walk d m va⟩) ?_ ?_
  · intro n hn
    simp only [List.mem_cons, List.not_mem_nil, or_false] at hc
    rcases hc with rfl | rfl
    · cases hn; intro e he; cases he with | head => decide | tail _ h => cases h
    · cases hn
  · simp only [List.mem_cons, List.not_mem_nil, or_false] at hc
    rcases hc with rfl | rfl
    · intro e he; cases he
    · intro e he; cases he with | head => decide | tail _ h => cases h

/-- CopyMovesBytes: a load and a store of the last 16 bytes of the page, at the end of the scratchpad. -/
theorem witness_CopyMovesBytes : ∀ dir ∈ [0, 1],
    let d1 : W64 := BitVec.ofNat 64 (0x17FFFF0 + 2 ^ 32 * 16 + 2 ^ 62 * dir)
    let o := op1 (.cpy .cpy 0x1FFF0 d1 0 0)
    let s := desk o
    let st := s.stream ⟨0, .main⟩
    let x : Xlat := ⟨0x20FFF0, 16, leaf0⟩
    Oldest s ⟨0, .main⟩ o [] ∧ Clean s ⟨0, .main⟩ o ∧ o.moved = 0 ∧ o.segs = none ∧ st.regs.phase.sets = none ∧ s.logged st.owner = false ∧
    d1.toNat / 2 ^ 62 = dir ∧ d1.toNat / 2 ^ 32 % 2 ^ 25 = 16 ∧ d1.toNat % 2 ^ 25 + 16 ≤ 0x1800000 ∧
    (∀ a y, s.peekLeaf st.owner (some 0) a = some y → leafEgr y.leaf = 0) ∧ s.boundsOk st.owner 0x1FFF0 16 (dir == 0) (dir == 1) = true ∧
    s.translate st.owner (some 0) 0x1FFF0 (dir == 0) (dir == 1) = (s, .ok x) ∧ 16 ≤ x.left ∧ leafEgr x.leaf = 0 := by
  intro dir h
  simp only [List.mem_cons, List.not_mem_nil, or_false] at h
  rcases h with rfl | rfl <;>
    exact ⟨by unfold Oldest; decide, by unfold Clean; decide, rfl, rfl, rfl, by decide, by decide, by decide, by decide,
      desk_local _ _ (some 0) (by decide), by decide +kernel, rfl, by decide, by decide⟩

/-- CopyMovesBytes, the element copies: of two elements, the first at the page's last byte, the second skipped. -/
theorem witness_element_copies : ∀ store : Bool,
    let d1 : W64 := BitVec.ofNat 64 (2 ^ 48 + 0x100)
    let o := op1 (.cpy (if store then .cpys else .cpyg) 0x1FFFF d1 0 0)
    let s := desk o [(7, 0x80)]
    Oldest s ⟨0, .main⟩ o [] ∧ Clean s ⟨0, .main⟩ o ∧ o.moved = 0 ∧ o.segs = none ∧ (s.stream ⟨0, .main⟩).regs.phase.sets = none ∧
    s.logged (s.stream ⟨0, .main⟩).owner = false ∧ d1.toNat / 2 ^ 60 = 0 ∧ d1.toNat / 2 ^ 48 % 2 ^ 12 + 1 = 2 ∧ d1.toNat / 2 ^ 25 % 2 ^ 23 = 0 ∧
    readLE (s.core 0).spad 0 4 = 0 ∧ (BitVec.ofNat 32 (readLE (s.core 0).spad 4 4)).toInt = -2 ^ 31 ∧
    LocalHit s ⟨0, .main⟩ 0x1FFFF 1 (!store) store ⟨0x20FFFF, 1, leaf0⟩ := by
  intro store
  cases store <;>
    exact ⟨by unfold Oldest; decide, by unfold Clean; decide, rfl, rfl, rfl, by decide, by decide, by decide, by decide, by decide, by decide,
      rfl, by decide, by decide, by decide +kernel, fun a y _ _ => desk_local _ _ (some 0) (by decide) a y⟩

/-- CopyMovesBytes, the records: one of 192 bytes that holds no element, with its CRC word, and one too short for its mask. -/
theorem witness_record_copies : ∀ lines ∈ [3, 1],
    let d1 : W64 := BitVec.ofNat 64 (2 ^ 63 + lines * 2 ^ 38)
    let o := op1 (.cpy .cpyx 0x10000 d1 0 0)
    let s := desk o
    Oldest s ⟨0, .main⟩ o [] ∧ Clean s ⟨0, .main⟩ o ∧ o.moved = 0 ∧ o.segs = none ∧ o.data = [] ∧ o.crc = 0 ∧
    (s.stream ⟨0, .main⟩).regs.phase.sets = none ∧ s.logged (s.stream ⟨0, .main⟩).owner = false ∧ d1.toNat / 2 ^ 38 % 2 ^ 12 = lines ∧
    d1.toNat / 2 ^ 50 % 2 ^ 8 + 1 = 1 ∧ d1.toNat % 2 ^ 25 = 0 ∧ d1.getLsbD 63 = true ∧ s.memRead 0 0x200000 132 = List.replicate 132 0 ∧ leafKey leaf0 = 0 ∧
    (lines = 3 → 4 + 128 ≤ 64 * lines) ∧ (lines = 1 → 64 * lines < 4 + 128) ∧
    LocalHit s ⟨0, .main⟩ 0x10000 (64 * lines) true false ⟨0x200000, 0x10000, leaf0⟩ := by
  intro n h
  simp only [List.mem_cons, List.not_mem_nil, or_false] at h
  rcases h with rfl | rfl <;>
    exact ⟨by unfold Oldest; decide, by unfold Clean; decide, rfl, rfl, rfl, rfl, rfl, by decide, by decide, by decide, by decide, by decide, by decide +kernel,
      by decide, by decide, by decide, rfl, by decide, by decide, by decide +kernel, fun a y _ _ => desk_local _ _ (some 0) (by decide) a y⟩

/-- DeviceOperationsComplete: the oldest D operation with its tokens set, without and with an error. -/
theorem witness_DeviceOperationsComplete : ∀ b ∈ [OpBody.tokj, .fence 1 true, .atom true 0 0 0, .cbar 3, .cred 0 0 false, .gdone 0, .gtrig 0, .notify 0],
    let s := main fun st => { st with dq := [op1 b], gens := gens1 }
    let o2 := { op1 b with ins := [2] }
    let e := main fun st => { st with dq := [o2], gens := [(1, { set := false }), (2, { status := 2 })] }
    Oldest s ⟨0, .main⟩ (op1 b) [] ∧ Clean s ⟨0, .main⟩ (op1 b) ∧ Oldest e ⟨0, .main⟩ o2 [] ∧ ¬Clean e ⟨0, .main⟩ o2 := by
  unfold Oldest Clean; decide

/-- DeviceOperationsComplete, the atomics: two elements at the end of the page, for every operation, with and without a return. -/
theorem witness_atomic : ∀ ret : Bool, ∀ op < 12,
    let w := if op = 0 then 4 else if 2 ≤ op ∧ op ≤ 4 then 32 else 8
    let va : W64 := BitVec.ofNat 64 (0x20000 - 2 * w)
    let c : W64 := 2 ^ 50 + 0x1000 + 0x2000 * 2 ^ 25
    let o := op1 (.atom ret va c (BitVec.ofNat 4 op))
    let s := desk o
    let st := s.stream ⟨0, .main⟩
    Oldest s ⟨0, .main⟩ o [] ∧ Clean s ⟨0, .main⟩ o ∧ o.moved = 0 ∧ st.regs.phase.sets = none ∧ s.logged st.owner = false ∧
    c.toNat / 2 ^ 50 % 2 ^ 8 + 1 = 2 ∧ va.toNat % w = 0 ∧ c.toNat % 2 ^ 25 = 0x1000 ∧ c.toNat / 2 ^ 25 % 2 ^ 25 = 0x2000 ∧
    s.boundsOk st.owner va.toNat (2 * w) true true = true ∧
    LocalHit s ⟨0, .main⟩ va.toNat w true true ⟨0x210000 - 2 * w, 2 * w, leaf0⟩ ∧
    LocalHit s ⟨0, .main⟩ (va.toNat + w) w true true ⟨0x210000 - w, w, leaf0⟩ := by
  intro ret op h
  have hit : ∀ (o : Op) (va w left : Nat), (desk o).translate 0 (some 0) va true true = (desk o, .ok ⟨va + 0x1F0000, left, leaf0⟩) → w ≤ left →
      (desk o).boundsOk 0 va w true true = true → LocalHit (desk o) ⟨0, .main⟩ va w true true ⟨va + 0x1F0000, left, leaf0⟩ :=
    fun o va w left ht hl hb => ⟨ht, hl, show leafEgr leaf0 = 0 by decide, hb, fun a y _ _ => desk_local _ _ (some 0) (by decide) a y⟩
  have cases12 : op = 0 ∨ op = 1 ∨ op = 2 ∨ op = 3 ∨ op = 4 ∨ op = 5 ∨ op = 6 ∨ op = 7 ∨ op = 8 ∨ op = 9 ∨ op = 10 ∨ op = 11 := by omega
  rcases cases12 with rfl | rfl | rfl | rfl | rfl | rfl | rfl | rfl | rfl | rfl | rfl | rfl <;> cases ret <;>
    exact ⟨by unfold Oldest; decide, by unfold Clean; decide, rfl, rfl, by decide, by decide, by decide, by decide, by decide, by decide +kernel,
      hit _ _ _ _ rfl (by decide) (by decide +kernel), hit _ _ _ _ rfl (by decide) (by decide +kernel)⟩

/-- DeviceOperationsComplete: GDONE of the first and of the last member of a node with one successor. -/
theorem witness_gdone : ∀ gsize ∈ [1, 2],
      let r : SRef := ⟨0, .main⟩
      let o := op1 (.gdone 0)
      let l : LaunchInfo := { fetchLaunch with node := some (9, 0), gsize := gsize }
      let n0 : GNode := { kind := .run, rst := false, npred := 0, succ := [1], body := [], snap := 0 }
      let u : GRun := { id := 1, nodes := [.running 0 0 [], .waiting 2] }
      let g : Graph := { nodes := [n0, { n0 with npred := 2, succ := [] }], plbase := 0, doneva := 0, bytes := 256, run := some u }
      let s := { (main fun st => { st with launch := some l, dq := [o], gens := gens1 }) with fe := { graphs := [(9, some g)] } }
      Oldest s r o [] ∧ Clean s r o ∧ (s.stream r).launch = some l ∧ s.graph 9 = some g ∧ u.failed = none ∧ u.nodes[0]? = some (.running l.id 0 []) ∧
      g.nodes[0]? = some n0 ∧ u.done = [] ∧ (gsize = 2 → 0 + 1 < l.gsize) ∧ (gsize = 1 → 0 + 1 = l.gsize) ∧ u.nodes[1]? = some (.waiting 2) ∧ n0.succ.count 1 < 2 := by unfold Oldest Clean; decide +kernel

/-- DeviceOperationsComplete: a GDONE of no node, and a GTRIG not yet sent. -/
theorem witness_gtrig : ∀ b ∈ [OpBody.gdone 0, .gtrig 0],
      let r : SRef := ⟨0, .main⟩
      let s := main fun st => { st with dq := [op1 b], gens := gens1 }
      Oldest s r (op1 b) [] ∧ Clean s r (op1 b) ∧ fetchLaunch.node = none ∧ (op1 b).sent = false := by unfold Oldest Clean; decide

/-- DeviceOperationsComplete: a NOTIFY to the own engine, by UALink and by Ultra Ethernet, of a protected context too. -/
theorem witness_notify : ∀ contain ∈ [0, 2], ∀ entry ∈ [[1, 15, 0, 3] ++ List.replicate 22 0 ++ [7], [3, 5, 0, 0] ++ List.replicate 22 0 ++ [7]], ∀ d ∈ [(0x300001000 : W64), 0x10300001000],
      let r : SRef := ⟨0, .main⟩
      let o := { op1 (.notify d) with data := List.replicate 32 0 }
      let s := { (main fun st => { st with dq := [o], gens := gens1 }) with
        peers := { table := [(3, entry)] }, mast := { registry := [(0, { contain := contain })] } }
      let b (n : Nat) : Nat := ((s.peers.table.get (d.toNat / 2 ^ 32 % 2 ^ 8) []).getD n 0).toNat
      Oldest s r o [] ∧ Clean s r o ∧ (s.stream r).regs.phase.sets = none ∧ d.toNat % 2 ^ 25 % 32 = 0 ∧ d.getLsbD 40 = (d == 0x10300001000) ∧ o.data.length = 32 ∧
      (b 0 = 1 ∧ b 1 < 16 ∧ b 3 < 4 ∨ b 0 = 3 ∧ b 7 = 0) ∧ b 26 < 8 ∧ (∀ k < 5, b (27 + k) = 0) ∧
      s.protected (s.stream r).owner = (contain == 2) ∧ s.recov = [] := by
  intro contain hc entry he d hd
  simp only [List.mem_cons, List.not_mem_nil, or_false] at hc he hd
  unfold Oldest Clean
  rcases hc with rfl | rfl <;> rcases he with rfl | rfl <;> rcases hd with rfl | rfl <;> decide

/-- FaultRecordsTlbsAndCounters: a load from an unmapped page; a suspended copy with its record; a counter at its threshold. -/
theorem witness_FaultRecordsTlbsAndCounters :
    let d1 : W64 := BitVec.ofNat 64 (2 ^ 32 * 16)
    let o := op1 (.cpy .cpy 0x5000 d1 0 0)
    let s := desk o
    let st := s.stream ⟨0, .main⟩
    (Oldest s ⟨0, .main⟩ o [] ∧ Clean s ⟨0, .main⟩ o ∧ d1.toNat / 2 ^ 62 = 0 ∧ o.moved = 0 ∧ o.segs = none ∧
      1 ≤ d1.toNat / 2 ^ 32 % 2 ^ 25 ∧ d1.toNat % 2 ^ 25 + 16 ≤ 0x1800000 ∧ (∀ a y, s.peekLeaf st.owner (some 0) a = some y → leafEgr y.leaf = 0) ∧
      s.boundsOk st.owner 0x5000 16 true false = true ∧ s.translate st.owner (some 0) 0x5000 true false = (s, .error (0, 4))) ∧
    (let o2 := { o with fault := some 7 }
     let f : FaultRec := { n := 7, ctx := 0, va := 0x5000, cause := 0, level := 4, write := false, who := .op ⟨0, .main⟩ 1 }
     let s2 := { desk o2 with faults := [f], boot := { stage := 3 } }
     f ∈ s2.faults ∧ s2.nymenUp = true ∧ (∀ g ∈ s2.faults, g.n = f.n → g = f) ∧ s2.dOp ⟨0, .main⟩ o2.id = some o2 ∧ o2.body.isStreamCopy = false) ∧
    (let s3 := { s with mast := { registry := [(0, { acthr := 5 })] }, dies := [(2, { counters := [⟨0, 3, 5⟩] })] }
     0 < (s3.ctx 0).acthr.toNat ∧ ∃ c ∈ (s3.die 2).counters, c.ctx = 0 ∧ c.block = 3 ∧ (s3.ctx 0).acthr.toNat ≤ c.count) := by
  refine ⟨⟨by unfold Oldest; decide, by unfold Clean; decide, by decide, rfl, rfl, by decide, by decide, desk_local _ _ (some 0) (by decide), by decide +kernel,
    rfl⟩, by decide, by decide⟩

/-- BarriersAndTreesComplete, the barrier: levels 0, 2 and 5 of a stream alone, a stream of the Mizzen that has not arrived at level 1, a PHASE
that waits, and a peer device of a fabric group whose participant has not arrived. -/
theorem witness_barriers :
    let r : SRef := ⟨0, .main⟩
    (∀ level ∈ [0, 2, 5],
      let o := op1 (.cbar level)
      let s := main fun st => { st with dq := [o], gens := gens1 }
      let me : Member := { at_ := .live r, r := r, st := s.stream r }
      Oldest s r o [] ∧ Clean s r o ∧ (s.stream r).launch = some fetchLaunch ∧ s.members.filter (fun m => m.r == r) = [me] ∧
      s.remotesOf level (s.stream r) = [] ∧ s.domain level me = [me]) ∧
    (let s := (main fun st => { st with dq := [op1 (.cbar 1)], gens := gens1 }).updStream ⟨0, .miz⟩ fun st =>
       { st with launch := some { fetchLaunch with id := 9 }, run := .running }
     let me : Member := { at_ := .live r, r := r, st := s.stream r }
     s.members.filter (fun m => m.r == r) = [me] ∧ s.remotesOf 1 (s.stream r) = [] ∧
     (∀ p ∈ s.domain 1 me, p.st.sys.cbars.get 1 0 ≤ (s.stream r).sys.cbars.get 1 0) ∧ ∃ p ∈ s.domain 1 me, p.st.dq = []) ∧
    (let s := { (main fun st => { st with dq := [op1 (.cbar 5)], gens := gens1, launch := some { fetchLaunch with group := 7 } }) with
       peers := { remotes := [(7, [{ id := 1 }, { id := 2, cbars := 1 }])] } }
     Oldest s r (op1 (.cbar 5)) [] ∧ s.members.filter (fun m => m.r == r) = [{ at_ := .live r, r := r, st := s.stream r }] ∧
     (op1 (.cbar 5)).sent = false ∧ (∃ p ∈ s.remotesOf 5 (s.stream r), p.cbars ≤ (s.stream r).sys.cbars.get 5 0) ∧
     (∀ p ∈ s.remotesOf 5 (s.stream r), p.cbars ≤ (s.stream r).sys.cbars.get 5 0 + 1) ∧
     ∀ p ∈ s.domain 5 { at_ := .live r, r := r, st := s.stream r }, p.st.sys.cbars.get 5 0 ≤ (s.stream r).sys.cbars.get 5 0) ∧
    (let s := main fun st => { st with phaseWait := some { value := 0x80000000, pc := 0, next := 2, level := 4 } }
     let st := s.stream r
     let me : Member := { at_ := .live r, r := r, st := st }
     s.members.filter (fun m => m.r == r) = [me] ∧ st.mq = [] ∧ st.pq = [] ∧ st.xq = [] ∧ st.dheld = [] ∧ st.dq = [] ∧ st.traps = [] ∧
     st.regs.phase.active = false ∧ st.det = false ∧ s.remotesOf 4 st = [] ∧ s.domain 4 me = [me]) := by unfold Oldest Clean; decide

/-- A stream of the launch that `l` changes, at its CBAR of a level or at a PHASE of KIND 1, after `n` earlier ones. -/
def arrived (level : Nat) (phase : Bool) (n : Nat) (l : LaunchInfo) (st : Stream) : Stream :=
  { st with
    launch := some l, gens := gens1, dq := if phase then [] else [op1 (.cbar level)]
    phaseWait := if phase then some { value := 0x80000000, pc := 0, next := 2, level := level } else none
    sys := { st.sys with cbars := if n = 0 then [] else [(level, n)] }
    regs := { st.regs with phase := { kinds := if n = 0 then [] else [(level, List.replicate n true)] } } }

/-- Two streams at their barrier: on one core for level 1, else on two dies. -/
def pairAt (phase : Bool) (level n : Nat) : State :=
  (main (arrived level phase 0 fetchLaunch)).updStream ⟨if level = 1 then 0 else 40, .miz⟩ (arrived level phase n { fetchLaunch with id := 9 })

/-- The two streams of `pairAt` at level 4 and a third, which is saved. -/
def threeAt (phase : Bool) : State :=
  { pairAt phase 4 0 with saved := [{ r := ⟨3, .main⟩, ctx := 0, st := arrived 4 phase 0 { fetchLaunch with id := 11 } {} }] }

/-- Main of core 0 as a member. -/
def mainMember (s : State) : Member := { at_ := .live ⟨0, .main⟩, r := ⟨0, .main⟩, st := s.stream ⟨0, .main⟩ }

/-- The stream of a member as it stands. -/
def standing (s : State) (p : Member) : Option Stream :=
  match p.at_ with
  | .live q => some (s.stream q)
  | .saved n => (s.saved[n]?).map fun i => i.st

/-- The domains of two and of three streams. -/
def domains (phase : Bool) : List (State × Nat × Nat) := [(pairAt phase 1 0, 1, 2), (threeAt phase, 4, 3)]

/-- BarriersAndTreesComplete, domains of two and three: Main and the Mizzen of a core at level 1; three launches of a context on three cores at level
4, one of them saved. -/
theorem witness_domains : ∀ phase : Bool, ∀ x ∈ domains phase,
    (x.1.members.filter fun m => m.r == ⟨0, .main⟩) = [mainMember x.1] ∧ x.1.remotesOf x.2.1 (x.1.stream ⟨0, .main⟩) = [] ∧
    (x.1.domain x.2.1 (mainMember x.1)).length = x.2.2 ∧ ((x.1.domain x.2.1 (mainMember x.1)).map fun p => p.at_).Nodup ∧
    (x.1.stream ⟨0, .main⟩).launch = some fetchLaunch ∧ ∀ p ∈ x.1.domain x.2.1 (mainMember x.1), standing x.1 p = some p.st := by decide +kernel

/-- BarriersAndTreesComplete: all of them stand at their CBAR. -/
theorem witness_cbars_together : ∀ x ∈ domains false, Oldest x.1 ⟨0, .main⟩ (op1 (.cbar x.2.1)) [] ∧ Clean x.1 ⟨0, .main⟩ (op1 (.cbar x.2.1)) ∧
    ∀ p ∈ x.1.domain x.2.1 (mainMember x.1), (p.st.sys.past.get x.2.1 {}) = {} ∧ p.st.sys.cbars.get x.2.1 0 = 0 ∧ p.st.dq = [op1 (.cbar x.2.1)] := by
  unfold Oldest Clean; decide +kernel

/-- BarriersAndTreesComplete: all of them stand at a PHASE of KIND 1. -/
theorem witness_phases_together : ∀ x ∈ domains true, ∀ p ∈ x.1.domain x.2.1 (mainMember x.1),
    (p.st.sys.past.get x.2.1 {}) = {} ∧ (p.st.phaseWait.any fun w => w.level == x.2.1 && w.value.getLsbD 31) = true ∧ p.st.regs.phase.kinds.get x.2.1 [] = [] ∧
    p.st.mq = [] ∧ p.st.pq = [] ∧ p.st.xq = [] ∧ p.st.dheld = [] ∧ p.st.dq = [] ∧ p.st.traps = [] ∧ p.st.regs.phase.active = false ∧
    p.st.det = false := by decide +kernel

/-- BarriersAndTreesComplete, the late joiner: the Mizzen has completed the CBAR, or the PHASE, at which Main stands. -/
theorem witness_late_joiner : ∀ phase : Bool,
    ((pairAt phase 1 1).members.filter fun m => m.r == ⟨0, .main⟩) = [mainMember (pairAt phase 1 1)] ∧
    ((pairAt phase 1 1).stream ⟨0, .main⟩).sys.cbars.get 1 0 = 0 ∧ ((pairAt phase 1 1).stream ⟨0, .main⟩).regs.phase.kinds.get 1 [] = [] ∧
    ∃ p ∈ (pairAt phase 1 1).domain 1 (mainMember (pairAt phase 1 1)), p.st.sys.cbars.get 1 0 = 1 ∧ p.st.regs.phase.kinds.get 1 [] = [true] := by
  decide +kernel

/-- BarriersAndTreesComplete, the late joiner of an instance that launches have completed which have ended since. -/
theorem witness_joined_late : ∀ phase : Bool,
    let s := (pairAt phase 4 0).updSys ⟨0, .main⟩ fun y => { y with past := [(4, { cbars := 1, phases := [[true]] })] }
    (s.members.filter fun m => m.r == ⟨0, .main⟩) = [mainMember s] ∧ s.remotesOf 4 (s.stream ⟨0, .main⟩) = [] ∧
    (s.stream ⟨0, .main⟩).sys.cbars.get 4 0 < ((s.stream ⟨0, .main⟩).sys.past.get 4 {}).cbars ∧
    ((s.stream ⟨0, .main⟩).sys.past.get 4 {}).phases[((s.stream ⟨0, .main⟩).regs.phase.kinds.get 4 []).length]? = some [true] := by
  decide +kernel

/-- A root without children for core 0, TID 7, with a result address 0x4000 and two elements at 0x2000. -/
def rootCred (fxw : Bool) : State :=
  let head := writeBytes [] 0x1000 (leBytes 8 (7 * 2 ^ 48 + 2 ^ 40))
  { (base.updCore 0 fun c => { c with
      spad := writeBytes head 0x1020 (leBytes 8 (0xFFFF * 2 ^ 16))
      main := { c.main with dq := [op1 (.cred 0x1000 (BitVec.ofNat 64 (0x2000 + 2 ^ 25 * 0x4000 + 2 ^ 50)) fxw)], gens := gens1 } }) with
    mast := { parts := [(0, { active := true, cores := [0, 1] })] } }

/-- BarriersAndTreesComplete, the cells of two children, without and with an own element. -/
theorem witness_tree_cells :
    let kids : List (List (W128 × W64)) := [[(1, 0), (2, 1)], [(3, 8), (4, 0)]]
    kids ≠ [] ∧ (∀ l ∈ kids, l.length = 2) ∧ (combine true kids none)[1]? = some (6, 1) ∧
    (combine true kids (some [(0x3F800000, 0), (0, 0)]))[0]? = some (0x10000000000000004, 8) := by decide +kernel

/-- BarriersAndTreesComplete, the trees: a root's CRED in both modes. -/
theorem witness_trees :
    (∀ fxw ∈ [true, false],
     let r : SRef := ⟨0, .main⟩
     let d1 : W64 := BitVec.ofNat 64 (0x2000 + 2 ^ 25 * 0x4000 + 2 ^ 50)
     let s := rootCred fxw
     (s.stream r).launch = some fetchLaunch ∧ Oldest s r (op1 (.cred 0x1000 d1 fxw)) [] ∧ Clean s r (op1 (.cred 0x1000 d1 fxw)) ∧
     (s.stream r).regs.phase.sets = none ∧ s.logged 0 = false ∧
     credCheck (s.core 0) (s.stream r) (s.partOf 0).cores 0 0x1000 d1 fxw = .ok ⟨7, 0, [(0, 0xFFFF, [])]⟩ ∧
     treeNo (s.ctx 0).partition 7 = 7 ∧ (s.treeNode 0 7).insts = [] ∧ (s.treeNode 0 7).gone = [] ∧ (s.treeNode 0 7).count = 0 ∧
     (s.treeNode 0 7).full = false) := by unfold Oldest Clean; decide +kernel

/-- BarriersAndTreesComplete, the trees: a child's packet before the node's own; a deadline that has passed. -/
theorem witness_tree_packets :
    (let p : TreePkt := { src := 1, fxw := false, vals := [(0x3F800000, 0)] }
     let s := { base with fabric := { flight := [(0, 7, 0, p)] } }
     p.src ≠ 0 ∧ (s.treeNode 0 7).insts = [] ∧ (s.treeNode 0 7).full = false ∧ 0 ∉ (s.treeNode 0 7).gone) ∧
    (let p : TreePkt := { src := 0, fxw := false, vals := [(0x3F800000, 0)], desc := [(0, 2, [1]), (1, 0, []), (2, 0xFFFF, [0])], dln := 5 }
     let i : TreeInst := { k := 3, own := some p, since := 10 }
     let s := { base with time := 15, fabric := { nodes := [(treeKey 0 7, { insts := [i] })] } }
     (s.treeNode 0 7).insts = [i] ∧ 0 < p.dln ∧ i.since + p.dln ≤ s.time ∧ i.heard = [] ∧ i.detFrom = [] ∧ p.det = false ∧ treeKids p.desc 0 = [1] ∧ treeKids p.desc 1 = [] ∧
     treeParent p.desc 0 ≠ 0xFFFF) := by decide +kernel

/-- CheckpointCommits: a bundle's checkpoint, a HALT's, and that of an ASWAP behind an operation in flight, with a withheld byte, two held atomics and a held D operation. -/
theorem witness_CheckpointCommits : ∀ a ∈ [(AfterCkpt.go, false), (.halt, false), (.go, true)],
    let q : CkptReq := { before := if a.2 then 3 else 2, after := a.1, swap := a.2 }
    let s := main fun st => { st with
      ckpt := some q, mq := [{ op1 (.mzero 0 0) with id := 2 }], dheld := [op1 .tokj], withheld := [(5, some 7)], gens := gens1, nextId := 3
      atoms := [⟨none, 4, [(4, 9), (8, 1)]⟩, ⟨some 0, 32, [(32, 0x3F800000)]⟩] }
    let st := s.stream ⟨0, .main⟩
    s.gang ⟨0, .main⟩ = [⟨0, .main⟩] ∧ st.ckpt = some q ∧ st.shroud = [] ∧ st.traps = [] ∧ st.phaseWait = none ∧ st.atoms.length = 2 ∧
    (q.swap = false → ∀ o ∈ st.mq ++ st.pq ++ st.xq, q.before ≤ o.id) ∧ q.swap = a.2 ∧ st.frozen.nymen = false ∧ s.logged st.owner = false ∧ SMap.canon none st.withheld = true := by decide

/-- CheckpointCommits, TrapsAreTaken, TrapHandlersAnswer: a stream that a crash of Nymen has frozen, a commit behind a swap that is still to come, a
context that is being ended. -/
theorem witness_held_back :
    (let s := main fun st => { st with ckpt := some { before := 1 }, frozen := { nymen := true } }
     s.gang ⟨0, .main⟩ = [⟨0, .main⟩] ∧ (s.stream ⟨0, .main⟩).frozen.nymen = true ∧ (s.stream ⟨0, .main⟩).ckpt ≠ none) ∧
    (let s := main fun st => { st with ckpt := some { before := 1, swap := true }, traps := [{ cause := 6, detail := 0, pc := 8, bundle := 1 }] }
     s.gang ⟨0, .main⟩ = [⟨0, .main⟩] ∧ s.swapOpen ⟨0, .main⟩ = true ∧ pickTrap (s.stream ⟨0, .main⟩).traps ≠ none) ∧
    (let s := { (main fun st => { st with run := .stopped }) with boot := { stage := 3 }, mast := { ending := [(0, some (0x83, false))] } }
     s.nymenUp = true ∧ s.gang ⟨0, .main⟩ = [⟨0, .main⟩] ∧ (s.stream ⟨0, .main⟩).run = .stopped ∧
     s.mast.ending.get (s.stream ⟨0, .main⟩).owner none ≠ none) := by decide

/-- TrapsAreTaken, with a higher cause and a later bundle beside the one that is picked: causes 6, 10 and 12, for Nymen, for the partition agent, and for the user handler, from the program and from that handler. -/
theorem witness_TrapsAreTaken : ∀ lv ∈ [0, 1, 2], ∀ n ∈ [6, 10, 12], ∀ h ∈ [none, some {}],
    let c : TrapCause := { cause := n, detail := 3, pc := 8, bundle := 1 }
    let s := { (main fun st => { st with traps := [{ c with cause := 1, bundle := 3 }, { c with cause := 12 }, c, { c with bundle := 2 }], beforeV := [(3, 5)], beforeQ := [(2, 1)], tileImgs := [(0, {})], statImgs := [(1, 5, [(9, 0)])]
                                         regs := { st.regs with handler := h } }) with
      mast := { registry := [(0, { tdeleg := BitVec.ofNat 64 (lv * 4 ^ n), uhentry := 0x100 })] } }
    let st := s.stream ⟨0, .main⟩
    s.gang ⟨0, .main⟩ = [⟨0, .main⟩] ∧ s.swapOpen ⟨0, .main⟩ = false ∧ st.mq = [] ∧ st.pq = [] ∧ st.xq = [] ∧ pickTrap st.traps = some c ∧ c.cause < 13 ∧ st.regs.handler = h ∧
    (st.beforeV.map Prod.fst).Nodup ∧ (st.beforeQ.map Prod.fst).Nodup ∧ (st.tileImgs.map Prod.fst).Nodup ∧ (st.statImgs.map Prod.fst).Nodup ∧
    (s.ctx 0).tdeleg.toNat / 4 ^ c.cause % 4 = lv ∧ (s.ctx 0).uhentry ≠ BitVec.allOnes 64 := by decide

/-- TrapHandlersAnswer: a stopped stream; one stopped for the partition agent; an overdue one with an operation in flight, running or to be saved; one that has executed HALT. -/
theorem witness_TrapHandlersAnswer :
    (let s := { (main fun st => { st with run := .stopped, sys := { st.sys with tcause := 0x106 } }) with boot := { stage := 3 } }
     let st := s.stream ⟨0, .main⟩
     s.nymenUp = true ∧ s.gang ⟨0, .main⟩ = [⟨0, .main⟩] ∧ st.run = .stopped ∧ s.mast.ending.get st.owner none = none ∧
     st.sys.tcause.toNat / 2 ^ 8 % 4 = 1) ∧
    (let s := main fun st => { st with pq := [op1 (.pgrp 0)], sys := { st.sys with safemax := 0x100000005, safeCount := 6 } }
     let st := s.stream ⟨0, .main⟩
     st.run = .running ∧ st.frozen = {} ∧ st.ckpt = none ∧ st.freezeReq = false ∧ st.sys.safemax.toNat % 2 ^ 32 < st.sys.safeCount ∧ st.traps = [] ∧ st.shroud = [] ∧ s.swapOpen ⟨0, .main⟩ = false ∧
     st.mq ++ st.pq ++ st.xq ≠ []) ∧
    (let s := main fun st => { st with run := .saved, pq := [op1 (.pgrp 0)], sys := { st.sys with safemax := 5, safeCount := 6 } }
     let st := s.stream ⟨0, .main⟩
     s.gang ⟨0, .main⟩ = [⟨0, .main⟩] ∧ st.run = .saved ∧ st.frozen = {} ∧ st.ckpt = none ∧ st.freezeReq = false ∧ st.sys.safemax.toNat % 2 ^ 32 < st.sys.safeCount ∧
     st.traps = [] ∧ st.shroud = [] ∧ s.swapOpen ⟨0, .main⟩ = false ∧ st.mq ++ st.pq ++ st.xq ≠ []) ∧
    (let s := main fun st => { st with ckpt := some { before := 1, after := .halt }, sys := { st.sys with safemax := 5, safeCount := 6 } }
     s.gang ⟨0, .main⟩ = [⟨0, .main⟩] ∧ (s.stream ⟨0, .main⟩).ckpt = some { before := 1, after := .halt }) := by decide +kernel

/-- ContextsAreSavedRestoredAndEnded: a stream at its pre-emption boundary; a saved image and a free core; a context to end, and one whose
streams have drained. -/
theorem witness_ContextsAreSavedRestoredAndEnded :
    let r : SRef := ⟨0, .main⟩
    (let s := (main fun st => { st with preempt := true, run := .saved }).updCore 0 fun c => { c with mizBlocked := 16, v := [(639, 7)] }
     let st := s.stream r
     ({ s with boot := { stage := 5 } } : State).nymenUp = true ∧ s.mast.ending.get st.owner none = none ∧ s.gang r = [r] ∧ st.launch = some fetchLaunch ∧ st.preempt = true ∧ st.run = .saved ∧ st.mq = [] ∧ st.pq = [] ∧ st.xq = [] ∧ st.dheld = [] ∧
     st.dq = [] ∧ st.ckpt = none ∧ s.ctxStreams 0 = [r] ∧ 16 ≤ (s.core 0).mizBlocked ∧
     (s.core 0).mizAt = (s.core 0).cycle) ∧
    (let img : SavedImg := { r := r, ctx := 0, st := (base.stream r), v := [(639, 7)], spad := some [(5, 7)] }
     let s : State := { mast := { parts := [(0, { active := true, cores := [3] })] }, saved := [img], boot := { stage := 3 } }
     s.nymenUp = true ∧ s.mast.ending.get 0 none = none ∧ img.st.dq = [] ∧ s.fe.pending = [] ∧ (s.core img.r.core).undo = [] ∧ img.st.launch = some fetchLaunch ∧ fetchLaunch.gpos = 0 ∧ fetchLaunch.zt ≤ 4 ∧ (img.v.map Prod.fst).Nodup ∧
     (∀ p ∈ img.v, fetchLaunch.vcl.getLsbD (p.1 / 64) = true) ∧ (s.core 3).main.launch = none ∧ (s.core 3).miz.launch = none ∧
     (s.partOf 0).cores.contains 3 = true) ∧
    (let s := { (main fun st => { st with dq := [op1 (.notify 0)], gens := gens1 }) with boot := { stage := 3 } }
     s.nymenUp = true ∧ s.saved = [] ∧ (s.ctx 0).state ≠ 4 ∧ s.mast.ending.get 0 none = none ∧ s.fe.pending = [] ∧ (∀ r ∈ s.ctxStreams 0, (s.stream r).run ≠ .stopped) ∧
     ∃ r ∈ s.ctxStreams 0, ∃ o ∈ (s.stream r).dq, o.ins = [] ∧ o.stage = .queued ∧ o.body = .notify 0) ∧
    (let s := { base with mast := { ending := [(0, some (0x83, false))] } }
     s.mast.ending.get 0 none = some (0x83, false) ∧ ∀ r ∈ s.ctxStreams 0, (s.stream r).busy = false) := by decide

/-- RecoveryPointsAreTaken: a context whose interval has passed, with its protection and while that is lost; one whose streams stand still. -/
theorem witness_RecoveryPointsAreTaken :
    (∀ lost : Bool,
     let s := { base with time := 5000, mast := { registry := [(0, { contain := if lost then 0x50006 else 0x50002 })] } }
     flag (s.ctx 0).contain 1 = true ∧ flag (s.ctx 0).contain 2 = lost ∧
     (s.recOf 0).last + 1000 * ((s.ctx 0).contain.toNat / 2 ^ 16 % 256) ≤ s.time ∧ s.ctxStreams 0 = [⟨0, .main⟩]) ∧
    (let s := { (main fun st => { st with frozen := { recovery := true } }) with recov := [(0, { taking := true })] }
     (s.recOf 0).taking = true ∧ s.ctxStreams 0 = [⟨0, .main⟩] ∧ ∀ m ∈ s.ctxStreams 0, (s.stream m).frozen.recovery = true ∧ (s.stream m).mq = [] ∧
       (s.stream m).pq = [] ∧ (s.stream m).xq = [] ∧ (s.stream m).ckpt = none ∧ (s.stream m).shroud = [] ∧ (s.stream m).traps = [] ∧
       (s.stream m).dq = []) := by decide

/-- ErrorsStrikeContexts: a line that nothing maps; one in a gigabyte that the context maps; a core's error, without and with an image. -/
theorem witness_ErrorsStrikeContexts :
    (2 ^ 39 - 1 < memSize ∧ (∀ p ∈ base.mast.registry, base.maps p.1 ((2 ^ 39 - 1) / 64) = false) ∧ base.keys.lines.get ((2 ^ 39 - 1) / 64) none = none) ∧
    (let e : CtxEntry := { state := 1 }
     let s : State := { mem := writeBytes (writeBytes (writeBytes [] 0 (leBytes 2 0x1001)) 0x1000 (leBytes 2 0x2001)) 0x2000 (leBytes 4 0x4000001B)
                        mast := { registry := [(0, e)] } }
     0x40000000 < memSize ∧ s.mast.registry = [(0, e)] ∧ e.state = 1 ∧ s.maps 0 (0x40000000 / 64) = true ∧ s.maps 0 (0x7FFFFFFF / 64) = true ∧
     flag e.contain 1 = false ∧ s.ctxStreams 0 = []) ∧
    (let r : SRef := ⟨0, .main⟩
     base.streams = [(r, base.stream r)] ∧ (base.stream r).launch = some fetchLaunch ∧ fetchLaunch.ctx = 0 ∧ (base.stream r).dq = [] ∧
     flag (base.ctx 0).contain 1 = false ∧
     let i : SavedImg := { r := r, ctx := 0, st := base.stream r }
     let s := { base with mast := { registry := [(0, { contain := 2 })] }
                          recov := [(0, { valid := true, images := [i], log := [(0x40, List.replicate 64 1, none)] })] }
     s.streams = [(r, base.stream r)] ∧ s.saved = [] ∧ flag (s.ctx 0).contain 1 = true ∧ flag (s.ctx 0).contain 2 = false ∧ (s.recOf 0).valid = true ∧
     (s.recOf 0).images = [i] ∧ i.r = r ∧ i.st.launch = some fetchLaunch ∧ i.st.dq = []) := by decide +kernel

/-- What stands at the PC of `s`: none when no decoding accepts it; else whether its one slot may run, and whether it traps. -/
def fetched (s : State) : Option (Bool × Bool) :=
  let c := s.core s.cur.core
  let pc := s.me.regs.pc
  let size := bundleLen (headerOf (lineBytes c pc.toNat))
  match decodeBundle size (lineBytes c pc.toNat) with
  | .error _ => none
  | .ok b => match b.slots with
    | [i] => some (i.slot.isSome && prepAll s [i] == .go && affords (tick c 1) (weight b.flags.ew true) && !laneStall (tick c 1) (occupied [i] []),
        (lowest (bundleTraps (s.atBundle pc (BitVec.ofNat 48 (pc.toNat + size))) [i] [])).isSome)
    | _ => none

/-- StepRunsTheDecodedBundle: an ADDI that runs, a LEAVE that traps without a loop, a word that no decoding accepts, and a Mizzen's ADDI
in a cycle in which Main's bundle holds the A slot. -/
theorem witness_StepRunsTheDecodedBundle :
    (∀ p ∈ [(0x0102, 0x002040200004, some (true, false)), (0x0101, (encode (.leave g0)).toNat, some (true, true)), (0x0101, 0, none)],
      let s := State.reset.withFetchWord 64 (p.1 + 2 ^ 16 * p.2.1)
      let st := s.me
      let c := s.core s.cur.core
      let l := st.launch.getD {}
      let pc := st.regs.pc.toNat
      let size := bundleLen (headerOf (lineBytes c pc))
      s.agenda = [] ∧ nextEvent s = none ∧ s.cur.core < numCores ∧ s.frame = {} ∧ st.mayIssue = true ∧ l.gpos = 0 ∧ s.gang s.cur = [s.cur] ∧
      turnOf s s.cur = some s.cur ∧ c.half = none ∧ st.regs.holds = {} ∧ pc + size < 64 * l.tlen ∧ isFill (headerOf (readBytes c.prog pc 2)) = false ∧
      isFill (headerOf (readBytes c.prog (pc + size) 2)) = false ∧ fetched s = p.2.2) ∧
    (let s0 := State.reset.withFetchWord 64 (0x0102 + 2 ^ 16 * 0x002040200004)
     let k := s0.core 0
     let h : HalfCycle := { first := .main, occ := [.A] }
     let s := { s0.setCore 0 { k with main := {}, miz := k.main, half := some h } with cur := ⟨0, .miz⟩ }
     let i : Instr := .addi g0 1 (r 1) false 4
     s.agenda = [] ∧ nextEvent s = none ∧ s.frame = {} ∧ s.me.mayIssue = true ∧ (s.me.launch.getD {}).gpos = 0 ∧ s.gang s.cur = [s.cur] ∧
     turnOf s s.cur = some s.cur ∧ s.me.regs.holds = {} ∧ (s.core 0).half = some h ∧ h.stall = false ∧ laneStall (s.core 0) (occupied [i] []) = false ∧ prepAll s [i] = .go ∧ i.slot ≠ none ∧
     (decodeBundle (bundleLen (headerOf (lineBytes (s.core 0) 0))) (lineBytes (s.core 0) 0)).toOption.map Bundle.slots = some [i] ∧
     (occupied [i] []).any h.occ.contains = true) ∧
    ({ base with agenda := [.event (.evack 0)] } : State).agenda = .event (.evack 0) :: [] := by decide

/-- StepRunsTheDecodedBundle: an OPP at the PC in the cycle in which a transition begins, and in one in which none does. -/
theorem witness_opp_waits : ∀ wait : Bool,
    let i : Instr := .opp g0 (.imm 5)
    let s0 := State.reset.withFetchWord 64 (0x0101 + 2 ^ 16 * (encode i).toNat)
    let k := s0.core 0
    let s := s0.setCore 0 { k with power := { k.power with due := 1, point := if wait then 3 else 5 } }
    s.agenda = [] ∧ nextEvent s = none ∧ s.frame = {} ∧ s.me.mayIssue = true ∧ s.gang s.cur = [s.cur] ∧ turnOf s s.cur = some s.cur ∧
    fetched s = some (true, false) ∧ guardHolds s.src.regs g0 = true ∧ ((tick (s.core 0) 1).power.trans ≠ none ↔ wait = true) := by decide

/-- EmptyAndSharedBundles: an empty bundle, and a member with the lead's branch on its Shroud. -/
theorem witness_EmptyAndSharedBundles :
    (let st := base.me
     st.mayIssue = true ∧ base.gang base.cur = [base.cur] ∧ turnOf base base.cur = some base.cur ∧ isFill (headerOf (readBytes (base.core 0).prog (st.regs.pc + 2).toNat 2)) = false ∧ st.regs.holds = {} ∧ st.regs.fmtPend = none ∧ st.regs.loops = [] ∧ lineCount st.withheld ≤ 1024 ∧
     st.preempt = false ∧ st.freezeReq = false ∧ st.debugReq = false ∧ (base.core 0).half = none ∧ affords (tick (base.core 0) 1) (weight 30 false) = true) ∧
    (let f : Flags := { ew := 0, safe := false, ckpt := false, stop := false }
     let it : ShroudItem := { bundle := { flags := f, slots := [.br g0 5] }, pc := 0, npc := 8, next := 10, loops := [], taken := true }
     let s := main fun st => { st with shroud := [it] }
     let m := s.stream ⟨0, .main⟩
     m.shroud = it :: [] ∧ m.run = .running ∧ m.frozen = {} ∧ m.traps = [] ∧ m.ckpt = none ∧ turnOf s ⟨0, .main⟩ = some ⟨0, .main⟩ ∧ it.kd = none ∧ it.after = none ∧ m.regs.holds = {} ∧ m.regs.fmtPend = none ∧
     lineCount m.withheld ≤ 1024 ∧ (s.core 0).half = none ∧ affords (tick (s.core 0) 1) 0 = true) := by decide

/-- `desk` with queue 0 of context 0 in slot 2: a ring of 64 words at the page's first address, holding `ws`; a graph image of one EMPTY node
at 0x11000. -/
def front (ws : List Nat) : State :=
  let d := desk default
  let ring := writeBytes d.mem 0x200000 (ws.flatMap (leBytes 4))
  let desc := writeBytes (writeBytes (writeBytes ring 0x101000 (leBytes 3 0x10000)) 0x101008 [6]) 0x101010 (leBytes 8 ws.length)
  { d with
    mem := writeBytes (writeBytes desc 0x201000 (leBytes 1 1)) 0x201040 (leBytes 1 3)
    mast := { d.mast with parts := [(0, { active := true, cores := [0, 1] })] }
    boot := { stage := 3 }
    fe := { slots := [(2, { qid := some 0, picked := true })] }
    peers := { queues := [(0, { valid := true, descPa := 0x101000, slot := some 2 })] } }

/-- The words of one packet of each type. -/
def packets : List (Nat × List Nat) := [(0, []), (1, [0x90080101, 0, 0, 0, 1, 0, 0, 0, 0]), (2, [0x10000, 0, 4]), (3, [0x1FFF8, 0, 7, 0]),
  (4, [0x18000, 0, 5, 0, 0]), (4, [0x18000, 0, 5, 0, 2]), (5, [0x11000, 0, 128, 9]), (6, [0, 0x09000000])]

/-- QueuePacketsAreServed: a packet of each type at the head of its queue, with what each asks beyond that; WAITMEM's condition fails and holds. -/
theorem witness_QueuePacketsAreServed : (∀ p ∈ packets,
    let s := front ((p.1 * 2 ^ 24 + p.2.length) :: p.2)
    s.servable 2 = true ∧ (s.slot 2).picked = true ∧ (s.slot 2).ibs = [] ∧ s.find 2 = (s, .packet p.1 p.2.length (p.2.map (BitVec.ofNat 32)))) ∧
    (let s := front []
     s.launchBad 0 [0x90080101, 0, 0, 0, 1, 0, 0, 0, 0] false = false ∧ s.fe.pending = [] ∧ s.boundsOk 0 0x1FFF8 8 false true = true ∧ s.logged 0 = false ∧
     s.mast.ending.get 0 none = none ∧ s.hasHalves = false ∧ s.vaRead 0 0x18000 8 [] = (s, List.replicate 8 0, .ok) ∧ s.graph 9 = none ∧ (s.slot 2).got = [] ∧
     s.vaRead 0 0x11000 128 [] = (s, [1] ++ List.replicate 63 0 ++ [3] ++ List.replicate 63 0, .ok) ∧
     (parseGraph ([1] ++ List.replicate 63 0 ++ [3] ++ List.replicate 63 0) (s.schedSpace 9)).isSome = true) ∧
    (let s : State := { front [] with mast := { (front []).mast with ending := [(0, some (0x83, false))] } }
     s.launchBad 0 [0x90080101, 0, 0, 0, 1, 0, 0, 0, 0] false = false ∧ s.mast.ending.get 0 none ≠ none) ∧
    (front []).translate 0 none 0x1FFF8 false true = (front [], .ok ⟨0x20FFF8, 8, leaf0⟩) := by
  refine ⟨by decide +kernel, by decide +kernel, by decide +kernel, rfl⟩

/-- QueuesMoveAndMap: a queue that waits, one that is stopped, one free to map, one mapped, one to be unmapped. -/
theorem witness_QueuesMoveAndMap :
    let slot (q : QSlot) : State := { front [] with fe := { slots := [(2, q)] } }
    (let s := slot { qid := some 0, waitmem := some (0x18000, 5, 1) }
     (s.slot 2).waitmem = some (0x18000, 5, 1) ∧ (s.slot 2).fault = none ∧ (s.work 0).stopped = false ∧ s.fe.stopped = false ∧ (s.slot 2).unmapping = false ∧ s.hasHalves = false ∧
     s.vaRead 0 0x18000 8 [] = (s, List.replicate 8 0, .ok)) ∧
    (∀ q ∈ [{ qid := some 0 }, {}],
      let s : State := { slot q with fe := { slots := [(2, q)], work := [(0, { stopped := true })] }, boot := { stage := 3 } }
      s.nymenUp = true ∧ (s.work 0).stopped = true ∧ s.fe.slots = [(2, s.slot 2)] ∧
      ((s.slot 2).qid = some 0 ∨ ∀ x ∈ s.fe.slots, x.2.qid ≠ some 0)) ∧
    (let s := { slot {} with peers := { queues := [(4095, { valid := true, descPa := 0x101000 })] } }
     s.nymenUp = true ∧ (s.queue 4095).valid = true ∧ (s.queue 4095).slot = none ∧ (s.slot 63).qid = none) ∧
    ((slot { qid := some 0 }).queue 0).slot = some 2 ∧
    (let s := slot { qid := some 0, unmapping := true }
     (s.slot 2).qid = some 0 ∧ (s.slot 2).unmapping = true ∧ (s.slot 2).ibs = [] ∧ (s.slot 2).fault = none) := by decide +kernel

/-- LaunchesStartAndEnd: a pending launch of Main of core 1, also of a context that is being terminated, and a halted stream. -/
theorem witness_LaunchesStartAndEnd :
    (let p : PendLaunch := { id := 1, ctx := 0, words := [0x90080101, 0x100, 0, 0, 1, 0, 0, 0, 0] }
     let s : State := { State.reset with fe := { pending := [p] }, mast := { parts := [(0, { active := true, cores := [1] })] } }
     let w0 := p.words.getD 0 0
     s.fe.pending = [p] ∧ s.mast.ending.get p.ctx none = none ∧ p.fault = none ∧ s.fe.stopped = false ∧ p.pos = none ∧ p.avoid = [] ∧ p.snap = none ∧ p.dva = none ∧ p.text = [] ∧ p.data = [] ∧
     w0.toNat % 2 ^ 8 < numCores ∧ w0.toNat / 2 ^ 8 % 8 = 1 ∧ w0.getLsbD 17 = false ∧ w0.getLsbD 18 = false ∧
     (let e : State := { s with mast := { s.mast with ending := [(0, some (0x83, false))] } }
      e.fe.pending = [p] ∧ e.mast.ending.get p.ctx none ≠ none) ∧
     (s.partOf p.ctx).cores.contains (w0.toNat % 2 ^ 8) = true ∧ s.freeAt p.id p.words (w0.toNat % 2 ^ 8) = true) ∧
    (let s := main fun st => { st with run := .halted }
     let st := s.stream ⟨0, .main⟩
     s.launchStreams 0 = [⟨0, .main⟩] ∧ s.launchInfo 0 = some fetchLaunch ∧ fetchLaunch.id = 0 ∧ fetchLaunch.ended = none ∧ fetchLaunch.gsize = 1 ∧
     fetchLaunch.node = none ∧ st.run = .halted ∧ st.mq = [] ∧ st.pq = [] ∧ st.xq = [] ∧ st.dheld = [] ∧ st.dq = [] ∧ st.ckpt = none) := by decide

/-- GraphsRun: a graph of two EMPTY nodes, idle with a trigger, running with a trigger, idle with one held, and a node to complete. -/
theorem witness_GraphsRun :
    let n0 : GNode := { kind := .empty, rst := false, npred := 0, succ := [1], body := [], snap := 0 }
    let n1 : GNode := { n0 with npred := 1, succ := [] }
    let v : W64 := 0x0900000000000000
    let g : Graph := { nodes := [n0, n1], plbase := 0, doneva := 0, bytes := 256 }
    let u : GRun := { id := 1, nodes := [.busy [] 0 none 0, .waiting 1] }
    let at_ (g : Graph) : State := { State.reset with fe := { graphs := [(9, some g)], triggers := [(0, v, .queue 2 1)] } }
    (∀ g' ∈ [g, { g with run := some u }, { g with held := some { value := v, src := .queue 2 1, fresh := false } }],
      (at_ g').graph (256 * 0 + v.toNat / 2 ^ 56) = some g' ∧ (∀ n ∈ g'.nodes, n.kind = .empty) ∧ (∃ n ∈ g'.nodes, n.npred = 0) ∧ g'.fault = none ∧
      (at_ g').fe.triggers[0]? = some (0, v, .queue 2 1) ∧ (at_ g').trigFirst 0 (.queue 2 1) = true ∧ (at_ g').fe.stopped = false) ∧ v.toNat % 2 ^ 3 = 0 ∧ v.toNat / 2 ^ 40 % 2 ^ 16 = 0 ∧ g.run = none ∧ g.held = none ∧ g.bytes = 256 ∧
    u.failed = none ∧ u.nodes[0]? = some (.busy [] 0 none 0) ∧ g.nodes[0]? = some n0 ∧ u.nodes.length = g.nodes.length ∧ 0 ∉ n0.succ ∧
    (1 ≠ 0 ∧ 1 < u.nodes.length ∧ u.nodes[1]? ≠ some .complete) := by decide

/-- GraphsRun, the answers to GTRIG: a GID that is not loaded, one whose run holds a trigger already, one whose run holds none. -/
theorem witness_gtrig_answers :
    let r : SRef := ⟨0, .main⟩
    let v : W64 := 0x0900000000000000
    let o : Op := { op1 (.gtrig v) with sent := true }
    let g : Graph := { nodes := [], plbase := 0, doneva := 0, bytes := 256, run := some { id := 1, nodes := [] } }
    ∀ x ∈ [none, some g, some { g with held := some { value := v, src := .queue 2 1, fresh := false } }],
      let s := { (main fun st => { st with dq := [o], gens := gens1 }) with fe := { graphs := [(9, x)], triggers := [(0, v, .stream r 1)] } }
      s.fe.triggers[0]? = some (0, v, .stream r o.id) ∧ s.fe.stopped = false ∧ s.trigFirst 0 (.stream r o.id) = true ∧ (s.stream r).dq = [o] ∧ o.sent = true ∧
      s.graph (256 * 0 + v.toNat / 2 ^ 56) = x ∧ v.toNat / 2 ^ 40 % 2 ^ 8 = 0 := by decide

/-- PoliciesChoose: a runnable candidate without a policy, a slot to enqueue without and with one, a time slice, programs accepted and refused. -/
theorem witness_PoliciesChoose :
    let s := { front [0] with fe := { slots := [(2, { qid := some 0, ready := true })] } }
    let t := s.setPart 0 { s.part 0 with policy := [0x06000001] }
    (s.fe.stopped = false ∧ (s.part 0).policy = [] ∧ (s.cands 0).length ≤ 64 ∧ (∃ c ∈ s.cands 0, c.runnable = true)) ∧
    (s.fe.slots = [(2, s.slot 2)] ∧ (s.slot 2).qid = some 0 ∧ (s.slot 2).ready = true ∧ (s.ctx (s.slotQueue (s.slot 2)).ctx).partition = 0) ∧
    (t.part 0).policy ≠ [] ∧ polOk [] = false ∧ s.nymenUp = true ∧
    (∀ f ∈ [0, 5], ∀ op ∈ [0x14, 0x15],
      let words : List W32 := [BitVec.ofNat 32 (op * 2 ^ 26 + f), 0xFC000000]
      let u := s.setPart 0 { s.part 0 with policy := words }
      u.fe.stopped = false ∧ (u.cands 0).length ≤ 64 ∧ (u.part 0).policy = words ∧ (∃ c ∈ u.cands 0, c.runnable = true) ∧ polOk words = true) := by
  decide +kernel

/-- A record for queue 3 with PROD 9 and sequence number 5, with the tag of an empty key. -/
def record : List Byte :=
  [3, 0, 0, 0, 0, 0, 0, 0, 9, 0, 0, 0, 0, 0, 0, 0, 5, 0, 0, 0, 0, 0, 0, 0, 0xCA, 0xC2, 0x68, 0x81, 0x0E, 0xDA, 0xDB, 0x96]

/-- NotifyRecordsAreAccepted: a fresh, a stale and a forged record for a queue mapped or not, and for one that is not valid; a trigger write; a record for a peer. -/
theorem witness_NotifyRecordsAreAccepted :
    (∀ last ∈ [4, 5], ∀ m ∈ [none, some 2],
      let s : State := { State.reset with peers := { queues := [(3, { valid := true, lastSeq := BitVec.ofNat 64 last, slot := m })], stations := [(1, { dbva := 0x4000 })] } }
      let e := s.queue (leNat ((record.drop 0).take 2))
      record.length = 32 ∧ leNat ((record.drop 0).take 2) < 4096 ∧ e.valid = true ∧ e.lastSeq.toNat = last ∧ leNat ((record.drop 16).take 8) = 5 ∧
      e.slot = m ∧ (hmacSha256 e.key (record.take 24)).take 8 = (record.drop 24).take 8 ∧
      (hmacSha256 [1] (record.take 24)).take 8 ≠ (record.drop 24).take 8 ∧ (s.peers.stations.get 1 {}).dbva = 0x4000) ∧
    (let s : State := { State.reset with peers := { stations := [(1, { ctxs := [7] })] }, mast := { registry := [(7, { trigVa := 0x8000 })] } }
     s.trigCtx 1 0x8000 = some 7) ∧
    (State.reset.queue (leNat ((record.drop 0).take 2))).valid = false ∧
    (let o := op1 (.notify 0x0000000300001000)
     let r : SRef := ⟨0, .main⟩
     let s := { (main fun st => { st with dq := [o], gens := gens1 }) with peers := { table := [(3, 1 :: List.replicate 31 0)] } }
     Oldest s r o [] ∧ Clean s r o ∧ (0x0000000300001000 : W64).getLsbD 40 = false ∧ s.protected (s.stream r).owner = false ∧
     s.notifyWay r 0x0000000300001000 = .peer 3) := by unfold Oldest Clean; decide +kernel

/-- PeerRequestsAct: a write, a read that waits, an atomic of 4 and of 8 bytes, at the end of the page; a released write. -/
theorem witness_PeerRequestsAct :
    let s := { desk default with peers := { stations := [(1, { ctxs := [0] })] } }
    (inDoorbell (s.peers.stations.get 1 {}) 0x1FFF8 = false ∧ s.trigCtx 1 0x1FFF8 = none ∧ s.stationHas 1 0 = true ∧ leafEgr leaf0 = 0 ∧ s.recov = [] ∧
      s.hasMarks = false ∧ s.hasHalves = false ∧ s.peers.reqs = [] ∧ s.boundsOk 0 0x1FFF8 8 false true = true ∧ s.boundsOk 0 0x1FFF8 8 true false = true ∧ s.boundsOk 0 0x1FFF8 8 true true = true ∧
      s.boundsOk 0 0x1FFF8 4 true true = true) ∧
    s.translate 0 none 0x1FFF8 false true = (s, .ok ⟨0x20FFF8, 8, leaf0⟩) ∧ s.translate 0 none 0x1FFF8 true false = (s, .ok ⟨0x20FFF8, 8, leaf0⟩) ∧
    s.translate 0 none 0x1FFF8 true true = (s, .ok ⟨0x20FFF8, 8, leaf0⟩) ∧
    (let q : PeerReq := { n := 0, stn := 1, link := 3, ctx := 0, va := 0x1FFF8, act := .read 8 }
     let u := { s with peers := { s.peers with reqs := [q] } }
     u.peers.reqs = [q] ∧ q.fault = none ∧ q.moved = 0 ∧ q.got = []) ∧
    (let e : EgItem := { ctx := 0, interval := 0, released := true, size := 4, msg := .write (.ualink 1 3 5) 8 [1, 2, 3, 4] }
     { s with egress := [e] }.egress = e :: [] ∧ e.released = true) := by
  refine ⟨by decide +kernel, rfl, rfl, rfl, by decide, by decide⟩

/-- An image of kind `kind` of one byte, by the key of 32 zeros in slot 0. -/
def image (kind : W16) : FwImage :=
  { magic := 0x5A170C3D, kind := kind, keyIx := 0, svn := 5, len := 1, load := 0x1000, entry := 0x1000, hash := sha256 [7], pubkey := List.replicate 32 0
    sig := List.replicate 7856 0, payload := [7] }

/-- EventsAndBoot: an event behind one whose key another core handles; the three images, each at its stage; an agent's image; images that the ROM
turns away. -/
theorem witness_EventsAndBoot :
    (let e1 : EventRec := ⟨5, 0x10000007, 0, 0, 0⟩
     let e2 : EventRec := ⟨5, 0x10000008, 0, 0, 0⟩
     let m : Mast := { events := [e1] ++ e2 :: [e1], handling := [(3, some { e1 with type := 4 })] }
     11 < 12 ∧ m.handling.get 11 none = none ∧ m.deferred = [] ∧ (∀ x ∈ [e1], ∃ p ∈ m.handling, p.2 = some { e1 with type := 4 } ∧ e1.okey = x.okey) ∧
     ∀ p ∈ m.handling, p.2 = some { e1 with type := 4 } ∧ e1.okey ≠ e2.okey) ∧
    (∀ p ∈ [(0, 1), (1, 4), (2, 2)],
      let img := image (BitVec.ofNat 16 p.2)
      let b : Boot := { stage := p.1, keyHash := [sha256 (List.replicate 32 0)], minSvn := [(p.2, 5)] }
      b.stage < 3 ∧ img.kind = [1, 4, 2].getD b.stage 0 ∧ img.magic = 0x5A170C3D ∧ img.len.toNat = img.payload.length ∧ 0 < img.payload.length ∧
      img.payload.length ≤ 0x1000000 ∧ img.load ≤ img.entry ∧ img.entry.toNat < img.load.toNat + img.payload.length ∧ img.pubkey.length = 32 ∧
      img.sig.length = 7856 ∧ img.hash.length = 32 ∧ img.keyIx.toNat < 4 ∧ b.keyHash[img.keyIx.toNat]? = some (sha256 img.pubkey) ∧
      b.revoked.getD img.keyIx.toNat false = false ∧ b.minSvn.get img.kind.toNat 0 ≤ img.svn ∧ sha256 img.payload = img.hash) ∧
    (let k : OwnerKey := { valid := true, revoked := false, minSvn := 5, key := List.replicate 32 0 }
     let s : State := { State.reset with boot := { stage := 3, owners := [(0, k)] }, mast := { parts := [(7, { active := true, cores := [1] })] } }
     s.nymenUp = true ∧ (s.part 7).active = true ∧ (image 3).kind = 3 ∧ (image 3).keyIx.toNat < 256 ∧ s.boot.owners.get (image 3).keyIx.toNat {} = k ∧
     k.key = (image 3).pubkey ∧ k.minSvn ≤ (image 3).svn) ∧
    (image 2).kind ≠ 1 ∧ (imgBytes (image 2)).length ≤ 17825792 ∧ State.reset.boot.stage = 0 ∧ State.reset.links.pcieHeld = false ∧ ({ stage := 1 } : Boot).stage ≥ 1 := by decide +kernel

theorem sealed_crc (n : Nat) (e : CtxEntry) (x : W32) : ctxBytes n { e with crc := x } = ctxBytes n e := rfl

/-- NymenRestartsWarm: contexts that are kept and one that is not; an image that still has its hash with a sealed entry; one second past. -/
theorem witness_NymenRestartsWarm :
    (let s := { base with mast := { registry := [(3, { state := 1, contain := 1 }), (4, { state := 4 })] }, boot := { stage := 3 } }
     s.nymenUp = true ∧ (∀ p ∈ s.mast.registry, (p.2.state = 1 ∨ p.2.state = 2 ∨ p.2.state = 3) → flag p.2.contain 0 = true) ∧ s.streams ≠ []) ∧
    (let e : CtxEntry := { state := 1, contain := 0 }
     let s : State := { State.reset with mast := { registry := [(3, e)] }, boot := { stage := 5 } }
     s.nymenUp = true ∧ s.mast.registry = [(3, e)] ∧ e.state = 1 ∧ flag e.contain 0 = false ∧ s.streams = []) ∧
    (let e : CtxEntry := { state := 1, contain := 1 }
     let k : CtxEntry := { e with crc := crc32c 0 (ctxBytes 3 e) }
     let s := { base with time := 1000000, crash := { since := some 0 }, mast := { registry := [(3, k)] }, boot := { nymenImage := [7], nymenHash := sha256 [7] } }
     s.crash.since = some 0 ∧ s.time ≤ 0 + 1000000 ∧ sha256 s.boot.nymenImage = s.boot.nymenHash ∧ s.mast.registry = [(3, k)] ∧ k.crc = crc32c 0 (ctxBytes 3 k)) ∧
    (let e : CtxEntry := { state := 1 }
     let s : State := { State.reset with time := 1000001, crash := { since := some 0 }, mast := { registry := [(3, e)] } }
     s.crash.since = some 0 ∧ 0 + 1000000 < s.time ∧ s.mast.registry = [(3, e)] ∧ e.state = 1 ∧ s.streams = []) := by
  refine ⟨by decide, by decide, ⟨rfl, by decide +kernel, by decide +kernel, rfl, congrArg (crc32c 0) (sealed_crc 3 _ _).symm⟩, by decide +kernel⟩

/-- NymenWritesItsTables: who runs and who may not; a free partition number and free cores at both ends; a partition to grow, and to give up a core; one to destroy; the last entry of each table. -/
theorem witness_NymenWritesItsTables :
    (let s : State := { State.reset with boot := { stage := 3 }, memctl := { trained := true }, mast := { parts := [(1, { active := true, cores := [2, 3], agent := true })], registry := [(9, { partition := 1 })] } }
     s.nymenUp = true ∧ s.mastRuns (.agent 1) = true ∧ (s.ctx 9).partition = 1 ∧ (9, s.ctx 9) ∈ s.mast.registry ∧ s.mastRuns .monitor = true ∧ s.memctl.trained = true ∧
     s.links.pcieHeld = false ∧ s.mastMay (.agent 1) (.weight 1 0) = false ∧ s.mastMay .monitor (.rank 9 0) = false ∧ s.mastMay (.agent 2) (.registry 9 {}) = false ∧
     (s.part 255).active = false ∧ (255 : Nat) < 256 ∧ (s.mast.parts.filter fun o => o.2.active).length < 40 ∧ (∀ c ∈ [143, 0, 1], c < numCores) ∧
     (∀ o ∈ s.mast.parts, ∀ c ∈ o.2.cores, c ∉ [143, 0, 1]) ∧ (s.part 1).active = true ∧ (∀ o ∈ s.mast.parts, o.1 = 1) ∧ (∀ c ∈ (s.part 1).cores, c ∈ [2, 3, 4]) ∧
     (∀ c ∈ (s.part 1).cores, c ∈ [3, 4] ∨ (s.core c).main.launch = none ∧ (s.core c).miz.launch = none) ∧
     ∀ c ∈ (s.part 1).cores, (s.core c).main.launch = none ∧ (s.core c).miz.launch = none) ∧
    (1023 < 1024 ∧ 1024 ≤ 1024 ∧ 143 < numCores ∧ 65535 < 65536 ∧ memSize - 4 + [(1 : Byte), 2, 3, 4].length ≤ memSize ∧ 4095 < 4096 ∧ (List.replicate 32 (0 : Byte)).length = 32) := by decide

/-- DebugWindow: a stopped stream of an unlocked partition, and one of a locked one. -/
theorem witness_DebugWindow :
    let s := main fun st => { st with run := .stopped }
    let u := s.setPart 0 { s.part 0 with unlocked := true }
    let r : SRef := ⟨0, .main⟩
    (s.stream r).launch = some fetchLaunch ∧ s.gang r = [r] ∧ (u.stream r).launch = some fetchLaunch ∧ u.gang r = [r] ∧
    (u.part (u.ctx fetchLaunch.ctx).partition).unlocked = true ∧ (u.stream r).run = .stopped ∧ 0x1800000 - 8 + 8 ≤ 0x1800000 ∧
    ¬ ((s.part (s.ctx fetchLaunch.ctx).partition).unlocked = true ∧ ((s.stream r).run = .stopped ∨ (s.stream r).frozen.debug = true)) ∧
    3 < (u.stream r).zt ∧ (let f := main fun st => { st with frozen := { st.frozen with debug := true } }
     (f.setPart 0 { f.part 0 with unlocked := true }).part 0 = { f.part 0 with unlocked := true } ∧ (f.stream r).frozen.debug = true ∧
     f.atRest r = true) ∧ u.links.pcieHeld = false := by decide

/-- PowerIsGranted: one partition of one core, and with power of another cluster under recall. -/
theorem witness_PowerIsGranted :
    let p : Partition := { active := true, cores := [143], ppower := 0x0000000010000064 }
    let s : State := { State.reset with mast := { parts := [(3, p)] } }
    (∀ m ∈ [(143, 5000, 100)], m.1 < numCores) ∧ s.mast.parts = [(3, p)] ∧ p.active = true ∧ p.cores = [143] ∧ s.arbiter.cores = [] ∧
    s.arbiter.lending = [] ∧ s.arbiter.penalties = [] ∧
    (let l : Lend := { shares := [(143, 50)], recallAt := some (s.time + 3) }
     l.recallAt.any (fun t => decide (s.time + 1 < t)) = true ∧ (l.shares.map fun q => if q.1 = 143 then q.2 else 0).sum = 50) := by decide

/-- Partition 7 of core 143 alone, partition 5 of core 142 in the cluster beside it. -/
def drooping : State := { State.reset with mast := { parts := [(5, { active := true, cores := [142] }), (7, { active := true, cores := [143] })] } }

/-- DroopAndLending: a droop of 41 mV, where the currents of two partitions rose alike; a penalty before and at its end; a cluster of no partition, and one
at work; a lender that wakes, without and with a recall in progress; a recall that ends. -/
theorem witness_DroopAndLending :
    (143 / 36 = 3 ∧ clusterOf 143 = 8 ∧ clusterOf 142 = 8 ∧ drooping.coreOwner 143 = some 7 ∧ drooping.coreOwner 142 = some 5 ∧ drooping.arbiter.penalties = [] ∧
      ∀ c < numCores, c / 36 = 3 → clusterOf c = 8 → drooping.coreOwner c ∈ [none, some 5, some 7]) ∧
    (∀ now ∈ [3, 4],
      let s : State := { State.reset with time := now, arbiter := { penalties := [⟨3, 8, 5, [(143, 7)], 4⟩] } }
      s.arbiter.penalties = [⟨3, 8, 5, [(143, 7)], 4⟩] ∧ (now = 3 → s.time < 4) ∧ (now = 4 → 4 ≤ s.time)) ∧
    (∀ c < numCores, c / 36 = 3 → clusterOf c = 8 → State.reset.gated c = true) ∧
    ¬(drooping.gated 143 = true ∨ 1024 ≤ (drooping.core 143).quiet) ∧
    (∀ back ∈ [none, some 9],
     let e : Lend := { idle := true, shares := [(108, 300)], recallAt := back }
     let s : State := { drooping with arbiter := { cores := [(143, 900)], lending := [(9 * 3 + 8, e)] } }
     108 ≠ 143 ∧ 108 / 36 = 3 ∧ ¬(s.gated 143 = true ∨ 1024 ≤ (s.core 143).quiet) ∧ s.arbiter.cores = [(143, 900)] ∧ s.arbiter.penalties = [] ∧
     s.arbiter.lending = [(35, e)] ∧ e.idle = true ∧ e.shares = [(108, 300)]) := by
  refine ⟨⟨by decide, by decide, by decide, by decide, by decide, by decide, by decide +kernel⟩, by decide, by decide +kernel, by decide, by decide⟩

/-- PointsTimersAndLinks: a core in transition, and the ends of each range; a station of four links. -/
theorem witness_PointsTimersAndLinks :
    let s := base.updCore 143 fun c => { c with power := { c.power with trans := some 7 } }
    (s.core 143).power.trans = some 7 ∧
    (∀ f ∈ [UaForm.x4, .x2x2, .x1x4],
      let u : State := { State.reset with links := { forms := [(3, f)] }, boot := { stage := 1 } }
      0 < (match u.links.forms.get 3 .x4 with | .x4 => 1 | .x2x2 => 2 | .x1x4 => 4) ∧ 1 ≤ u.boot.stage) := by decide

/-- UnassignedOpcodesTrap: opcode 0 and the opcode above the last, at the PC, for every slot. -/
theorem witness_UnassignedOpcodesTrap : ∀ p ∈ [(0, 0x12), (1, 0x1A), (2, 0x19), (3, 0x0C), (4, 0x05), (5, 0x05), (6, 0x03), (7, 0x0D)], ∀ opc ∈ [0, p.2 + 1],
    let w : W48 := BitVec.ofNat 48 (opc * 2 ^ 36)
    let s := State.reset.withFetchWord 64 (2 ^ p.1 + 2 ^ 16 * w.toNat)
    let c := s.core s.cur.core
    let pc := s.me.regs.pc.toNat
    (opc = 0 ∨ p.2 < opc) ∧ w.toNat / 2 ^ 36 % 2 ^ 7 = opc ∧ s.agenda = [] ∧ nextEvent s = none ∧ s.frame = {} ∧ s.me.mayIssue = true ∧
    (s.me.launch.getD {}).gpos = 0 ∧ s.gang s.cur = [s.cur] ∧ s.me.regs.holds = {} ∧ pc + 8 < 64 * (s.me.launch.getD {}).tlen ∧
    (([Slot.K, .A, .V, .L, .M, .P, .X, .D].getD p.1 .K), w) ∈ slotWords (presSlots (headerOf (lineBytes c pc))) ((lineBytes c pc).drop 2) ∧
    isFill (headerOf (readBytes c.prog pc 2)) = false ∧ isFill (headerOf (readBytes c.prog (pc + 8) 2)) = false ∧
    bundleLen (headerOf (lineBytes c pc)) = 8 ∧ bundleSubcode 8 (lineBytes c pc) = some 3 := by decide +kernel

/-- EncodingsDecode and AcceptedWordsAreEncodings: a well-formed slot and bundle, an accepted word. -/
theorem witness_encodings :
    (Instr.add g0 1 (r 2) (r 3) false).slot = some .A ∧ (Instr.add g0 1 (r 2) (r 3) false).wf = true ∧
    ({ flags := { ew := 3, safe := true, ckpt := false, stop := true }, slots := [.leave g0, .add g0 1 (r 2) (r 3) false] } : Bundle).wf 14 = true ∧
    slotOf .A (encode (.add g0 1 (r 2) (r 3) false)) = some (.add g0 1 (r 2) (r 3) false) := by decide

/-- StepsKeepMemoryCanonical: a canonical memory with a byte in it, and a step from it. -/
theorem witness_StepsKeepMemoryCanonical :
    let s := { State.reset.withFetchWord 64 (0x0102 + 2 ^ 16 * 0x002040200004) with mem := [(5, 7)] }
    Memory.wf s.mem = true ∧ (match step s with | .next t => t.mem == s.mem | _ => false) = true := by decide

end Sys2Proof.Tests
end

section
/-! PROOFS. What package cold reset leaves (R4), and what the memory controllers guarantee to each partition once the
bandwidth is shared out (R304, R316). -/
namespace Sys2Proof

/-! ### Sparse maps -/

/-- Writing a value that depends on the key alone at every key of a list. -/
theorem SMap.get_foldl_set (f : Nat → Nat) (ks : List Nat) (n : Nat) : ∀ m : SMap Nat,
    (ks.foldl (fun m k => m.set k (f k) 0) m).get n 0 = if n ∈ ks then f n else m.get n 0 := by
  induction ks with
  | nil => intro m; simp
  | cons k ks ih =>
    intro m
    rw [List.foldl_cons, ih, SMap.get_set]
    by_cases hk : n = k
    · subst hk; simp
    · simp [hk]

/-- A listed entry is what its key reads as, where no key is listed twice. -/
theorem SMap.get_of_mem {α : Type} {k : Nat} {v d : α} : ∀ {m : SMap α}, (m.map Prod.fst).Nodup → (k, v) ∈ m → m.get k d = v
  | (j, w) :: t, hm, h => by
    rw [List.map_cons, List.nodup_cons] at hm
    rw [SMap.get_cons]
    rcases List.mem_cons.1 h with h | h
    · obtain ⟨rfl, rfl⟩ := Prod.mk.inj h
      exact if_pos rfl
    · have hjk : j ≠ k := by
        rintro rfl
        exact hm.1 (List.mem_map.2 ⟨_, h, rfl⟩)
      rw [if_neg hjk]
      exact SMap.get_of_mem hm.2 h

end Sys2Proof

namespace Sys2Proof.Machine

/-! ### Cold reset -/

@[simp] theorem State.core_reset (n : Nat) : State.reset.core n = {} := rfl
@[simp] theorem State.stream_reset (r : SRef) : State.reset.stream r = {} := by
  obtain ⟨n, w⟩ := r
  cases w <;> rfl
@[simp] theorem State.part_reset (n : Nat) : State.reset.part n = {} := rfl
@[simp] theorem State.ctx_reset (n : Nat) : State.reset.ctx n = {} := rfl

/-- Settles O58: no core, stream, partition or context is listed after reset, so each holds the values of its type. -/
theorem resetLeavesTheGivenValues : Obligations.ResetLeavesTheGivenValues := by
  unfold Obligations.ResetLeavesTheGivenValues
  intro n z e t r part ctx
  dsimp only
  rw [State.stream_reset, State.core_reset, State.part_reset, State.ctx_reset]
  and_intros <;> rfl

/-! ### The guaranteed bandwidth -/

/-- R316: the number of an active partition is guaranteed the share that its number reads as. -/
theorem State.shares_shareOut {s : State} {o : Nat × Partition} (ho : o ∈ s.mast.parts.filter fun p => p.2.active) :
    s.shareOut.memctl.shares.get o.1 0 = s.share o.1 := by
  have hfold : s.shareOut.memctl.shares =
      ((s.mast.parts.filter fun p => p.2.active).map Prod.fst).foldl (fun (m : SMap Nat) k => m.set k (s.share k) 0) [] := by
    simp only [State.shareOut, List.foldl_map]
  rw [hfold, SMap.get_foldl_set, if_pos (List.mem_map_of_mem ho)]

/-- R316 for a table of partitions that lists no number twice: an active partition is guaranteed the part of the bandwidth
left that its own MEMSH is of the sum, of 256 at the least. -/
theorem State.shares_shareOut_of_nodup {s : State} (hs : (s.mast.parts.map Prod.fst).Nodup) {o : Nat × Partition}
    (ho : o ∈ s.mast.parts.filter fun p => p.2.active) :
    s.shareOut.memctl.shares.get o.1 0 = s.bandwidth * (fld o.2.ppower 40 8).toNat /
      max 256 ((s.mast.parts.filter fun p => p.2.active).map fun p => (fld p.2.ppower 40 8).toNat).sum := by
  have hpart : s.part o.1 = o.2 := SMap.get_of_mem hs (List.mem_filter.1 ho).1
  rw [State.shares_shareOut ho]
  simp only [State.share, hpart]
  congr 1
  split <;> omega

/-- An active partition whose MEMSH is 1. -/
def memsh1 : Partition := { active := true, ppower := 0x10000000000 }

/-- Nymen runs, and number 7 is listed twice: first destroyed, then active. -/
def listedTwice : State := { State.reset with boot := { stage := 3 }, mast := { parts := [(7, {}), (7, memsh1)] } }

/-- Clearing the PPOWER of partition 0, which is not listed, shares the bandwidth out and changes nothing else. -/
theorem exec_ppower_listedTwice : exec (.mastRegisterWrite ⟨.nymen, .ppower 0 0⟩) listedTwice = .next listedTwice.shareOut := rfl

/-- Number 7 reads as its first entry, whose MEMSH is 0. -/
theorem shares_listedTwice : listedTwice.shareOut.memctl.shares.get 7 0 = 0 :=
  State.shares_shareOut (s := listedTwice) (o := (7, memsh1)) (by decide)

/-- Refutes O49: after a write of a bandwidth share every active entry of the table is to have the share of its own MEMSH where no two
active entries bear one number, but an entry that is not active may bear that number too and be read in its place. In `listedTwice` the
active partition 7 is guaranteed nothing, where its own share would be 83.2 GB/s. Such a table is not in canonical form: no write of the
model (`SMap.set`) lists a number twice, and for a table that lists none twice the guaranteed shares are right
(`State.shares_shareOut_of_nodup`). -/
theorem not_nymenWritesItsTables : ¬ Obligations.NymenWritesItsTables := by
  unfold Obligations.NymenWritesItsTables
  intro h
  obtain ⟨-, -, -, -, hNymen⟩ := h 0 0 0 0 0 0 .nymen [] false false .x4 [] [] 0 {} {} {} {} 0 listedTwice
  obtain ⟨-, -, -, -, -, -, -, hPpower, -⟩ := hNymen rfl
  obtain ⟨t, ht, ⟨-, hshares⟩, -⟩ := hPpower
  rw [exec_ppower_listedTwice] at ht
  obtain rfl := Host.Outcome.next.inj ht
  have hdue := hshares (by decide) (7, memsh1) (by decide)
  rw [shares_listedTwice] at hdue
  exact absurd hdue (by decide)

end Sys2Proof.Machine
end
